-- ==== Sys2Proof/Word.lean ====
section
/-!
DEFINITION. The data unit of MC-SPE: every datum of the protocol is one unsigned byte (20_memory.md R66).
-/
namespace Sys2Proof

/-- One unsigned byte, bit 0 least significant (00_scope.md R6). -/
abbrev Byte := BitVec 8

end Sys2Proof
end

