-- ==== Sys2Proof/Config.lean ====
section
/-!
DEFINITION. The parameters of the block (00_scope.md R5), and the values the spec leaves open as constants without a body.
-/
namespace Sys2Proof.Config

/-- `MARKER(top)` (00_scope.md R5, 10_state.md R22). -/
abbrev markerTop : Byte := 0x62
/-- `MARKER(bottom)` (00_scope.md R5, 10_state.md R22). -/
abbrev markerBottom : Byte := 0x61
/-- The encoding of the label `top` in `CFG_LABEL` (30_encoding.md R89). -/
abbrev labelTop : BitVec 2 := 0b10
/-- The encoding of the label `bottom` in `CFG_LABEL` (30_encoding.md R89). -/
abbrev labelBottom : BitVec 2 := 0b01
/-- `FRAME_LEN`, the length of a status frame (00_scope.md R5). -/
abbrev frameLen : Nat := 13
/-- The value at which `RX_CNT` saturates, "14 or more" (10_state.md R26, 92_eei_decisions.md D9). -/
abbrev rxCntMax : Nat := 14
/-- First byte of `TRAILER` (00_scope.md R5, 42_command_encoder.md R154). -/
abbrev trailer0 : Byte := 0xD5
/-- Second byte of `TRAILER` (00_scope.md R5, 42_command_encoder.md R154). -/
abbrev trailer1 : Byte := 0x7B
/-- `STEP_WIRE_BYTES` (00_scope.md R5, 90_conflicts.md C1). -/
abbrev stepWireBytes : Nat := 4
/-- `SETTLE_MS` (00_scope.md R5). -/
abbrev settleMs : Nat := 500
/-- `STAGGER_MS` (00_scope.md R5). -/
abbrev staggerMs : Nat := 50
/-- `DRAIN_OFFSET_MS`, counted from the end of the settle delay (00_scope.md R5, 90_conflicts.md C2). -/
abbrev drainOffsetMs : Nat := 250
/-- `REQ_MAX_LEN` (00_scope.md R5, 92_eei_decisions.md D13). -/
abbrev reqMaxLen : Nat := 4
/-- `TICK_MS`: one tick is one millisecond (00_scope.md R5, 92_eei_decisions.md D2); read by no rule of the block. -/
abbrev tickMs : Nat := 1
/-- `BAUD`: a parameter of the PHY (00_scope.md R5, 44_external_interfaces.md R214); read by no rule of the block. -/
abbrev baud : Nat := 9600

/-- `TICK_TOL`, the accuracy of the tick, OPEN (92_eei_decisions.md D31); read by no rule of the block.
UNVERIFIED, safe (log 20): nothing can be proved of its value. -/
opaque tickTol : Nat

/-- `RX_BUF` after the n-th Reset, unspecified (10_state.md R40, 92_eei_decisions.md D29). Free value, safe (log 8). -/
opaque freeRxBuf : Nat → Vector Byte 13
/-- `CUR_LEN` after the n-th Reset, unspecified within its range 0..4 (10_state.md R29, R40). Free value, safe (log 8). -/
opaque freeCurLen : Nat → Fin 5
/-- `CUR_CHARS` after the n-th Reset, unspecified (10_state.md R40). Free value, safe (log 8). -/
opaque freeCurChars : Nat → Vector Byte 4
/-- `WIRE` after the n-th Reset, unspecified (10_state.md R40). Free value, safe (log 8). -/
opaque freeWire : Nat → Vector Byte 4

/-- `CMDINT(d, i)` for a digit outside 1..9, for which no result is stated (42_command_encoder.md R152). Free value, safe (log 19). -/
opaque freeCmdIndex : BitVec 4 → BitVec 2 → Byte
/-- What `BeginXmit` latches when the character at the pointer is no route character, which no run reaches
(43_command_sequencer.md R180 "never no-op here"). Free value, safe (log 16). -/
opaque freeStep : Nat → Vector Byte 4

end Sys2Proof.Config
end

