-- ==== Sys2Proof/Syntax.lean ====
section
/-!
DEFINITION. The instructions: one constructor per row of spec/opcode_table.json (30_encoding.md R95), with the operand
records that cross the block's ports.
-/
namespace Sys2Proof

/-- A switch request, format RQ (30_encoding.md R81): `len` characters of `chars` count, `chars[i]` is for output `i+1`. -/
structure Request where
  len   : BitVec 3
  chars : Vector Byte 4
  deriving DecidableEq, Repr

/-- The straps sampled by Reset, format CFG (30_encoding.md R89); `in4`, `out4`: 0 means 2 channels, 1 means 4. -/
structure Straps where
  label : BitVec 2
  in4   : Bool
  out4  : Bool
  deriving DecidableEq, Repr

/-- What `Decode` yields and `Install` writes (41_status_interpreter.md R137, R138); element `k-1` is output or input `k`. -/
structure DeviceStatus where
  mem   : Vector Byte 4
  route : Vector Byte 4
  inp   : Vector Bool 4
  out   : Vector Bool 4
  power : Bool
  deriving DecidableEq, Repr

/-- One constructor per row of spec/opcode_table.json; LAWS.json maps each to its row's mnemonic. -/
inductive Instr where
  -- RXB, received bytes (40_frame_decoder.md R110 to R112)
  | rxMarkerTop
  | rxMarkerBottom
  | rxDataSynced (b : Byte)
  | rxDataUnsynced (b : Byte)
  -- RQC, request characters (30_encoding.md R82)
  | skip
  | route1
  | route2
  | route3
  | route4
  | route5
  | route6
  | route7
  | route8
  | route9
  | skipinv (c : Byte)
  -- WS4, wire steps (30_encoding.md R84, R85)
  | ws4General (cmd comp : Byte)
  | ws4Out1In1
  | ws4Out1In2
  | ws4Out1In3
  | ws4Out1In4
  | ws4Out2In1
  | ws4Out2In2
  | ws4Out2In3
  | ws4Out2In4
  | ws4Out3In1
  | ws4Out3In2
  | ws4Out3In3
  | ws4Out3In4
  | ws4Out4In1
  | ws4Out4In2
  | ws4Out4In3
  | ws4Out4In4
  -- SF13, a status frame (30_encoding.md R86)
  | sf13 (f : Vector Byte 13)
  -- FUNC, internal functions without an encoding
  | getPortNumber (code : Byte)
  | isAvailable (byte : Byte) (pos : BitVec 3)
  | decodeFn (f : Vector Byte 13)
  | install (st : DeviceStatus)
  | parse (c : Byte)
  | cmdint (d : BitVec 4) (i : BitVec 2)
  | complement (v : Byte)
  | encodeFn (c : Byte) (i : BitVec 2)
  -- HOST, port operations
  | getstatus
  | switchcmd (r : Request)
  | reset (st : Straps)
  -- SEQ, the sequencer's timed actions (43_command_sequencer.md R173)
  | seqStart
  | seqAdvance
  | seqSettle
  | seqBeginXmit
  | seqXmit
  | seqDrain
  | seqEndStep
  deriving DecidableEq, Repr

end Sys2Proof
end

