-- ==== Sys2Proof/WellFormed.lean ====
section
/-!
DEFINITION. Which instructions are well formed: the operand ranges of the spec that the operand types do not already fix.
-/
namespace Sys2Proof

/-- The characters that are neither a digit '1'..'9' nor the sentinel 'x' (30_encoding.md R82). -/
def isUnparseable (c : Byte) : Bool :=
  !(0x31 ≤ c.toNat && c.toNat ≤ 0x39) && c != 0x78

/-- Operand checks: SKIPINV's character (30_encoding.md R82); the general wire step's complement (R84, and the table's note) and
command index, in the range no specific row claims and the formula can yield (R91: 0x10..0x14); CMDINT's digit 1..9
(42_command_encoder.md R152); a request's length 0..4 (30_encoding.md R81). -/
def Instr.wellFormed : Instr → Bool
  | .skipinv c => isUnparseable c
  | .ws4General cmd comp => comp == ~~~cmd && 0x10 ≤ cmd.toNat && cmd.toNat ≤ 0x14
  | .cmdint d _ => 1 ≤ d.toNat && d.toNat ≤ 9
  | .switchcmd r => r.len.toNat ≤ Config.reqMaxLen
  | .rxMarkerTop | .rxMarkerBottom | .rxDataSynced _ | .rxDataUnsynced _ => true
  | .skip | .route1 | .route2 | .route3 | .route4 | .route5 | .route6 | .route7 | .route8 | .route9 => true
  | .ws4Out1In1 | .ws4Out1In2 | .ws4Out1In3 | .ws4Out1In4 | .ws4Out2In1 | .ws4Out2In2 | .ws4Out2In3 | .ws4Out2In4 => true
  | .ws4Out3In1 | .ws4Out3In2 | .ws4Out3In3 | .ws4Out3In4 | .ws4Out4In1 | .ws4Out4In2 | .ws4Out4In3 | .ws4Out4In4 => true
  | .sf13 _ | .getPortNumber _ | .isAvailable _ _ | .decodeFn _ | .install _ | .parse _ | .complement _ | .encodeFn _ _ => true
  | .getstatus | .reset _ => true
  | .seqStart | .seqAdvance | .seqSettle | .seqBeginXmit | .seqXmit | .seqDrain | .seqEndStep => true

end Sys2Proof
end

