-- ==== Sys2Proof/Decode.lean ====
section
/-!
DEFINITION. The decoder and the encoder of the block's byte-level languages (30_encoding.md). Which language a byte belongs
to is decided by where it arrives, never by its value (R80, R95): the decoder is told the stream.
-/
namespace Sys2Proof

/-- The four languages with an encoding (30_encoding.md R80). For received bytes the class depends on `CFG_LABEL` (R88) and
on `RX_SYNCED` (R95(a)). -/
inductive Stream where
  | rxb (label : BitVec 2) (synced : Bool)
  | rqc
  | ws4
  | sf13
  deriving DecidableEq, Repr

/-- Why the decoder gives no instruction. -/
inductive DecodeError where
  /-- Fewer bytes than the format has. -/
  | truncated
  /-- A received byte while the label is unknown: no marker is defined (10_state.md R22, 40_frame_decoder.md R114). -/
  | unknownLabel
  /-- A wire step whose last two bytes are not the trailer (42_command_encoder.md R154). -/
  | badTrailer
  deriving DecidableEq, Repr

/-- `CFG_MARKER` as a function of `CFG_LABEL`; none for an unknown label, where it is undefined and never read (10_state.md R22). -/
def marker (label : BitVec 2) : Option Byte :=
  if label = Config.labelTop then some Config.markerTop
  else if label = Config.labelBottom then some Config.markerBottom
  else none

/-- The class of a received byte (30_encoding.md R88; the rows of R95(a)). -/
def decodeRxb (label : BitVec 2) (synced : Bool) (b : Byte) : Except DecodeError Instr :=
  match marker label with
  | none => .error .unknownLabel
  | some m =>
    if b = m then (if label = Config.labelTop then .ok .rxMarkerTop else .ok .rxMarkerBottom)
    else if synced then .ok (.rxDataSynced b) else .ok (.rxDataUnsynced b)

/-- The class of a request character (30_encoding.md R82). -/
def decodeRqc (c : Byte) : Instr :=
  if c = 0x78 then .skip
  else if c = 0x31 then .route1
  else if c = 0x32 then .route2
  else if c = 0x33 then .route3
  else if c = 0x34 then .route4
  else if c = 0x35 then .route5
  else if c = 0x36 then .route6
  else if c = 0x37 then .route7
  else if c = 0x38 then .route8
  else if c = 0x39 then .route9
  else .skipinv c

/-- A wire step: the sixteen rows of 30_encoding.md R85 have priority over the general pattern (R95, "a row with a larger mask"). -/
def decodeWs4 (cmd comp : Byte) : Instr :=
  if comp = ~~~cmd then
    if cmd = 0x00 then .ws4Out1In1
    else if cmd = 0x01 then .ws4Out1In2
    else if cmd = 0x02 then .ws4Out1In3
    else if cmd = 0x03 then .ws4Out1In4
    else if cmd = 0x04 then .ws4Out2In1
    else if cmd = 0x05 then .ws4Out2In2
    else if cmd = 0x06 then .ws4Out2In3
    else if cmd = 0x07 then .ws4Out2In4
    else if cmd = 0x08 then .ws4Out3In1
    else if cmd = 0x09 then .ws4Out3In2
    else if cmd = 0x0A then .ws4Out3In3
    else if cmd = 0x0B then .ws4Out3In4
    else if cmd = 0x0C then .ws4Out4In1
    else if cmd = 0x0D then .ws4Out4In2
    else if cmd = 0x0E then .ws4Out4In3
    else if cmd = 0x0F then .ws4Out4In4
    else .ws4General cmd comp
  else .ws4General cmd comp

/-- The next instruction of a stream and the bytes after it. Total: every byte list gives an instruction or a named error. -/
def decode : Stream → List Byte → Except DecodeError (Instr × List Byte)
  | .rxb label synced, b :: rest => (decodeRxb label synced b).map (·, rest)
  | .rqc, c :: rest => .ok (decodeRqc c, rest)
  | .ws4, cmd :: comp :: t0 :: t1 :: rest =>
      if t0 = Config.trailer0 ∧ t1 = Config.trailer1 then .ok (decodeWs4 cmd comp, rest) else .error .badTrailer
  | .sf13, f0 :: f1 :: f2 :: f3 :: f4 :: f5 :: f6 :: f7 :: f8 :: f9 :: f10 :: f11 :: f12 :: rest =>
      .ok (.sf13 #v[f0, f1, f2, f3, f4, f5, f6, f7, f8, f9, f10, f11, f12], rest)
  | _, _ => .error .truncated

/-- The bytes of a wire step with command byte `cmd` and complement `comp` (30_encoding.md R84). -/
def ws4Bytes (cmd comp : Byte) : List Byte := [cmd, comp, Config.trailer0, Config.trailer1]

/-- The bytes of an instruction; none for the rows that have no bit encoding (30_encoding.md R95(e), (f), (g)). -/
def encode : Instr → Option (List Byte)
  | .rxMarkerTop => some [Config.markerTop]
  | .rxMarkerBottom => some [Config.markerBottom]
  | .rxDataSynced b => some [b]
  | .rxDataUnsynced b => some [b]
  | .skip => some [0x78]
  | .route1 => some [0x31]
  | .route2 => some [0x32]
  | .route3 => some [0x33]
  | .route4 => some [0x34]
  | .route5 => some [0x35]
  | .route6 => some [0x36]
  | .route7 => some [0x37]
  | .route8 => some [0x38]
  | .route9 => some [0x39]
  | .skipinv c => some [c]
  | .ws4General cmd comp => some (ws4Bytes cmd comp)
  | .ws4Out1In1 => some (ws4Bytes 0x00 0xFF)
  | .ws4Out1In2 => some (ws4Bytes 0x01 0xFE)
  | .ws4Out1In3 => some (ws4Bytes 0x02 0xFD)
  | .ws4Out1In4 => some (ws4Bytes 0x03 0xFC)
  | .ws4Out2In1 => some (ws4Bytes 0x04 0xFB)
  | .ws4Out2In2 => some (ws4Bytes 0x05 0xFA)
  | .ws4Out2In3 => some (ws4Bytes 0x06 0xF9)
  | .ws4Out2In4 => some (ws4Bytes 0x07 0xF8)
  | .ws4Out3In1 => some (ws4Bytes 0x08 0xF7)
  | .ws4Out3In2 => some (ws4Bytes 0x09 0xF6)
  | .ws4Out3In3 => some (ws4Bytes 0x0A 0xF5)
  | .ws4Out3In4 => some (ws4Bytes 0x0B 0xF4)
  | .ws4Out4In1 => some (ws4Bytes 0x0C 0xF3)
  | .ws4Out4In2 => some (ws4Bytes 0x0D 0xF2)
  | .ws4Out4In3 => some (ws4Bytes 0x0E 0xF1)
  | .ws4Out4In4 => some (ws4Bytes 0x0F 0xF0)
  | .sf13 f => some f.toList
  | .getPortNumber _ | .isAvailable _ _ | .decodeFn _ | .install _ => none
  | .parse _ | .cmdint _ _ | .complement _ | .encodeFn _ _ => none
  | .getstatus | .switchcmd _ | .reset _ => none
  | .seqStart | .seqAdvance | .seqSettle | .seqBeginXmit | .seqXmit | .seqDrain | .seqEndStep => none

/-- The seven groups of spec/opcode_table.json (30_encoding.md R80, R95). -/
inductive Format where
  | rxb
  | rqc
  | ws4
  | sf13
  | func
  | host
  | seq
  deriving DecidableEq, Repr

/-- The `format` column of an instruction's row (30_encoding.md R95). -/
def Instr.format : Instr → Format
  | .rxMarkerTop | .rxMarkerBottom | .rxDataSynced _ | .rxDataUnsynced _ => .rxb
  | .skip | .route1 | .route2 | .route3 | .route4 | .route5 | .route6 | .route7 | .route8 | .route9 | .skipinv _ => .rqc
  | .ws4General _ _ => .ws4
  | .ws4Out1In1 | .ws4Out1In2 | .ws4Out1In3 | .ws4Out1In4 | .ws4Out2In1 | .ws4Out2In2 | .ws4Out2In3 | .ws4Out2In4 => .ws4
  | .ws4Out3In1 | .ws4Out3In2 | .ws4Out3In3 | .ws4Out3In4 | .ws4Out4In1 | .ws4Out4In2 | .ws4Out4In3 | .ws4Out4In4 => .ws4
  | .sf13 _ => .sf13
  | .getPortNumber _ | .isAvailable _ _ | .decodeFn _ | .install _ => .func
  | .parse _ | .cmdint _ _ | .complement _ | .encodeFn _ _ => .func
  | .getstatus | .switchcmd _ | .reset _ => .host
  | .seqStart | .seqAdvance | .seqSettle | .seqBeginXmit | .seqXmit | .seqDrain | .seqEndStep => .seq

/-- Whether the row of a received-byte instruction applies under that label and that value of `RX_SYNCED` (30_encoding.md R88,
R95(a)). -/
def Instr.rowApplies (label : BitVec 2) (synced : Bool) : Instr → Bool
  | .rxMarkerTop => label == Config.labelTop
  | .rxMarkerBottom => label == Config.labelBottom
  | .rxDataSynced b => synced && (marker label).isSome && marker label != some b
  | .rxDataUnsynced b => !synced && (marker label).isSome && marker label != some b
  | _ => false

/-- Whether an instruction belongs to a stream: its format is the stream's and, for a received byte, its row applies. -/
def Instr.belongsTo (i : Instr) : Stream → Bool
  | .rxb label synced => i.format == .rxb && i.rowApplies label synced
  | .rqc => i.format == .rqc
  | .ws4 => i.format == .ws4
  | .sf13 => i.format == .sf13

/-- Byte `k` of a table word, bit 0 of the word being bit 0 of byte 0. -/
def tableByte (w k : Nat) : Byte := BitVec.ofNat 8 (w / 256 ^ k)

/-- The bytes of a table word as the hardware stores them. A WS4 row is one 32-bit word with wire byte 0 in bits 31..24
(30_encoding.md R95), sent first; every other row is cut into bytes from bit 0 upwards. -/
def tableBytes (nbits w : Nat) : List Byte :=
  if nbits = 32 then [tableByte w 3, tableByte w 2, tableByte w 1, tableByte w 0]
  else (List.range (nbits / 8)).map (tableByte w)

/-- The stream a table word of `nbits` bits is read from (log 18): 32 bits a wire step, 104 bits a status frame; one byte (or two,
of which an instruction takes the first) is a marker where it has a marker's value and a request character otherwise. -/
def tableStream (nbits : Nat) (bytes : List Byte) : Option Stream :=
  if nbits = 32 then some .ws4
  else if nbits = 104 then some .sf13
  else if nbits = 8 ∨ nbits = 16 then
    if bytes.head? = some Config.markerTop then some (.rxb Config.labelTop true)
    else if bytes.head? = some Config.markerBottom then some (.rxb Config.labelBottom true)
    else some .rqc
  else none

/-- The instruction the decoder reads from a word numbered as spec/opcode_table.json numbers its bits. -/
def decodeTableWord (nbits w : Nat) : Option Instr :=
  match tableStream nbits (tableBytes nbits w) with
  | none => none
  | some st =>
    match decode st (tableBytes nbits w) with
    | .ok (i, _) => some i
    | .error _ => none

end Sys2Proof
end

