-- ==== Sys2Proof/Machine/State.lean ====
section
/-!
DEFINITION. The state of one MC-SPE instance as plain data (10_state.md R20), the reasons a step of the model can stop, and the
state right after reset (10_state.md R40, 70_reset_and_hazards.md R260).
-/
namespace Sys2Proof.Machine

/-- `SEQ_STATE` (10_state.md R28); its binary encoding is visible at no port. -/
inductive SeqState where
  | idle
  | settle
  | xmit
  | drain
  deriving DecidableEq, Repr

/-- The input events that fall on one clock edge (00_scope.md R8, 60_exceptions.md R235), at most one of each kind, with the
level of the pin `tx_fail` at that edge (44_external_interfaces.md R210). -/
structure Edge where
  reset     : Option Straps  := none
  getStatus : Bool           := false
  rx        : Option Byte    := none
  switchCmd : Option Request := none
  drainDone : Option Bool    := none
  tick      : Bool           := false
  txFail    : Bool           := false
  deriving DecidableEq, Repr

/-- What the model can be given next. `edge` is the hardware's only input; the other three are the model's own, so that a table
row that no event starts by itself can be run on its own (DESIGN CHOICE, safe: log 10). -/
inductive Input where
  | edge (e : Edge)
  /-- run the request character at the sequence pointer on its own (20_memory.md R79) -/
  | char
  /-- run the table word `w` of `nbits` bits -/
  | word (nbits w : Nat)
  /-- run one operation that has no encoding -/
  | op (i : Instr)
  deriving DecidableEq, Repr

/-- The record a `GetStatus` returns (41_status_interpreter.md R139): `memory` and `route` have `OUTPUT_COUNT` members,
`outputStatus` is there only when `OUTPUT_COUNT = 4`. -/
structure StatusRecord where
  memory       : List Byte
  route        : List Byte
  inputStatus  : Vector Bool 4
  outputStatus : Option (Vector Bool 4)
  power        : Bool
  deriving DecidableEq, Repr

/-- What the block puts on its output ports (44_external_interfaces.md R210), and the results of internal functions run on
their own (log 9). -/
inductive Output where
  /-- `TxWrite(b)` and the PHY's answer (R212) -/
  | txWrite (b : Byte) (ok : Bool)
  /-- `DrainReq()` (R213) -/
  | drainReq
  /-- `Log(code)` (60_exceptions.md R231) -/
  | log (code : BitVec 3)
  /-- the answer to a `GetStatus`; none is `EMPTY` (41_status_interpreter.md R140) -/
  | status (r : Option StatusRecord)
  /-- `req_accept` (R219) -/
  | reqAccept (a : Bool)
  /-- the result of `getPortNumber`, `CMDINT` or `COMPLEMENT` -/
  | byte (b : Byte)
  /-- the result of `isAvailable` -/
  | bit (b : Bool)
  /-- the result of `PARSE`; none is `fail` -/
  | digit (d : Option Byte)
  /-- the result of `DECODE` -/
  | decoded (st : DeviceStatus)
  /-- the result of `ENCODE`; none is `no-op` -/
  | step (w : Option (Vector Byte 4))
  deriving DecidableEq, Repr

/-- The whole state of one instance: the registers of 10_state.md R20, the open parameter `QUEUE_DEPTH`, and the model's own
fields (`inputs`, `txFail`, `outs`, `freeCtr`: log 1, log 2, log 4, log 8). -/
structure State where
  /-- `CFG_LABEL` (10_state.md R21) -/
  cfgLabel  : BitVec 2
  /-- `CFG_IN_COUNT` (R23): false is 2, true is 4 -/
  cfgIn4    : Bool
  /-- `CFG_OUT_COUNT` (R23): false is 2, true is 4 -/
  cfgOut4   : Bool
  /-- `CFG_FAULT` (R24) -/
  cfgFault  : Bool
  /-- `RTS`, `DTR`, `DSR` (R25): true is asserted -/
  rts       : Bool
  dtr       : Bool
  dsr       : Bool
  /-- `RX_SYNCED` (R26) -/
  rxSynced  : Bool
  /-- `RX_CNT` (R26) -/
  rxCnt     : BitVec 4
  /-- `RX_BUF[0..12]` (R27) -/
  rxBuf     : Vector Byte 13
  /-- `ST_VALID` (R31) -/
  stValid   : Bool
  /-- `ST_MEM[1..4]` (R32); element `k-1` is `ST_MEM[k]`, and so for the next four -/
  stMem     : Vector Byte 4
  /-- `ST_ROUTE[1..4]` (R32) -/
  stRoute   : Vector Byte 4
  /-- `ST_IN[1..4]` (R33) -/
  stIn      : Vector Bool 4
  /-- `ST_OUT[1..4]` (R33) -/
  stOut     : Vector Bool 4
  /-- `ST_POWER` (R33) -/
  stPower   : Bool
  /-- `Q`, head first (R34) -/
  q         : List Request
  /-- `SEQ_STATE` (R28) -/
  seqState  : SeqState
  /-- `IDX` (R28) -/
  idx       : BitVec 3
  /-- `TIMER` (R28) -/
  timer     : BitVec 9
  /-- `CUR_LEN` (R29) -/
  curLen    : BitVec 3
  /-- `CUR_CHARS[0..3]` (R29) -/
  curChars  : Vector Byte 4
  /-- `WIRE[0..3]` (R30) -/
  wire      : Vector Byte 4
  /-- `DRAIN_DONE`, `DRAIN_OK` (R35) -/
  drainDone : Bool
  drainOk   : Bool
  /-- `ERR_WRITE`, `ERR_DRAIN`, `ERR_QFULL` (R38) -/
  errWrite  : Bool
  errDrain  : Bool
  errQfull  : Bool
  /-- `QUEUE_DEPTH`, none is unbounded (00_scope.md R5, 92_eei_decisions.md D14); no event writes it (log 5) -/
  qDepth    : Option Nat
  /-- the inputs still to come, oldest first (model's own, log 1) -/
  inputs    : List Input
  /-- the pin `tx_fail` during the event being handled (model's own, log 4) -/
  txFail    : Bool
  /-- everything put on the output ports, oldest first (model's own, log 2) -/
  outs      : List Output
  /-- how many instructions have drawn free values (model's own, log 8) -/
  freeCtr   : Nat
  deriving DecidableEq, Repr

/-- Where the model itself stops. -/
inductive Fault where
  /-- Raised by the fetch for the model's own input "run the character at the sequence pointer" (log 10) where the pointer holds
  none. No instruction and no clock edge raises it. Safe. -/
  | strayPointer
  deriving DecidableEq, Repr

/-- Why the model gives an instruction no meaning. -/
inductive Refusal where
  /-- Raised only by an arm of `exec` that has no meaning yet (none is left). Safe. -/
  | notModelled (mnemonic : String)
  /-- Raised by the fetch for a table word that no row of the table matches (log 18). Safe: no such word reaches the block. -/
  | noEncoding
  deriving DecidableEq, Repr

/-- The values that Reset leaves unspecified (10_state.md R40, 92_eei_decisions.md D29). -/
structure Unspecified where
  rxBuf    : Vector Byte 13
  curLen   : BitVec 3
  curChars : Vector Byte 4
  wire     : Vector Byte 4
  deriving DecidableEq, Repr

/-- The values of the unspecified registers in `State.reset`: zero (DESIGN CHOICE, unsafe: log 7). -/
def Unspecified.zero : Unspecified :=
  { rxBuf := Vector.replicate 13 0, curLen := 0, curChars := Vector.replicate 4 0, wire := Vector.replicate 4 0 }

/-- The straps of `State.reset`: label top, 4 inputs, 4 outputs (DESIGN CHOICE, unsafe: log 6). -/
def Straps.default : Straps := { label := Config.labelTop, in4 := true, out4 := true }

/-- The machine right after reset (10_state.md R40) with the straps of log 6, an unbounded queue (log 5) and no pending input. -/
def State.reset : State :=
  { cfgLabel := Straps.default.label, cfgIn4 := Straps.default.in4, cfgOut4 := Straps.default.out4, cfgFault := false
    rts := false, dtr := true, dsr := true
    rxSynced := false, rxCnt := 0, rxBuf := Unspecified.zero.rxBuf
    stValid := false, stMem := Vector.replicate 4 0, stRoute := Vector.replicate 4 0
    stIn := Vector.replicate 4 false, stOut := Vector.replicate 4 false, stPower := false
    q := [], seqState := .idle, idx := 0, timer := 0
    curLen := Unspecified.zero.curLen, curChars := Unspecified.zero.curChars, wire := Unspecified.zero.wire
    drainDone := false, drainOk := false, errWrite := false, errDrain := false, errQfull := false
    qDepth := none, inputs := [], txFail := false, outs := [], freeCtr := 0 }

end Sys2Proof.Machine
end

