-- ==== Sys2Proof/Machine/Operands.lean ====
section
/-!
DEFINITION. The pure functions of the datapath: character and index operands of the encoder (42_command_encoder.md), selector
codes, flag bits and the whole-frame decode (41_status_interpreter.md), and the operand at the sequence pointer.
-/
namespace Sys2Proof.Machine

/-- `PARSE(c)` (42_command_encoder.md R151); none is `fail`. -/
def parseDigit (c : Byte) : Option Byte :=
  if 0x31 ≤ c.toNat ∧ c.toNat ≤ 0x39 then some (c - 0x30) else none

/-- `CMDINT(d, i) = i * 4 + (d - 1)` (42_command_encoder.md R152). -/
def cmdIndex (d i : Byte) : Byte := i * 4 + (d - 1)

/-- `COMPLEMENT(v) = 255 - v` (42_command_encoder.md R153). -/
def complementByte (v : Byte) : Byte := 255 - v

/-- The four wire bytes with command byte `v` (30_encoding.md R84). -/
def wireStep (v : Byte) : Vector Byte 4 := #v[v, complementByte v, Config.trailer0, Config.trailer1]

/-- `ENCODE(c, i)` (42_command_encoder.md R157); none is `no-op`. -/
def encodeStep (c i : Byte) : Option (Vector Byte 4) :=
  (parseDigit c).map fun d => wireStep (cmdIndex d i)

/-- `getPortNumber(code)` (41_status_interpreter.md R130). -/
def portNumber (code : Byte) : Byte := if code = 8 then 4 else if code = 4 then 3 else code

/-- `isAvailable(byte, p)`, that is `byte[p]` (41_status_interpreter.md R131). -/
def available (byte : Byte) (p : Nat) : Bool := byte.getLsbD p

/-- Whether the outputs are four: `OUTPUT_COUNT` is 2 or 4 (10_state.md R23). -/
def channelCount (four : Bool) : Nat := if four then 4 else 2

/-- A per-output field of the status: the selector codes of outputs `1..OUTPUT_COUNT`, 0 for an output the configuration does
not have (41_status_interpreter.md R132, R133, R137). -/
def selectors (out4 : Bool) (r1 r2 r3 r4 : Byte) : Vector Byte 4 :=
  #v[portNumber r1, portNumber r2, if out4 then portNumber r3 else 0, if out4 then portNumber r4 else 0]

/-- `Decode(F)` (41_status_interpreter.md R137), for the frame layout of 30_encoding.md R86 and R87. -/
def decodeFrame (out4 : Bool) (f : Vector Byte 13) : DeviceStatus :=
  { mem := selectors out4 f[0] f[1] f[2] f[3]
    route := selectors out4 f[4] f[5] f[6] f[7]
    inp := #v[available f[8] 7, available f[8] 6, available f[8] 5, available f[8] 4]
    out := if out4 then #v[available f[8] 3, available f[8] 2, available f[8] 1, available f[8] 0]
           else Vector.replicate 4 false
    power := f[9] != 0 }

/-- The request character at the sequence pointer: `CUR_CHARS[IDX]` while `IDX < CUR_LEN` (43_command_sequencer.md R175,
20_memory.md R79). -/
def curChar (s : State) : Option Byte :=
  if s.idx.toNat < s.curLen.toNat then s.curChars[s.idx.toNat]? else none

/-- `IDX` as the index operand of the encoder (30_encoding.md R83). -/
def outputIndex (s : State) : Byte := s.idx.setWidth 8

/-- The record of the last installed status (41_status_interpreter.md R139): absent fields are not part of it. -/
def statusRecord (s : State) : StatusRecord :=
  { memory := s.stMem.toList.take (channelCount s.cfgOut4)
    route := s.stRoute.toList.take (channelCount s.cfgOut4)
    inputStatus := s.stIn
    outputStatus := if s.cfgOut4 then some s.stOut else none
    power := s.stPower }

/-- What a `GetStatus` returns; none is `EMPTY` (41_status_interpreter.md R139, R140). -/
def statusRead (s : State) : Option StatusRecord :=
  if s.cfgFault || !s.stValid then none else some (statusRecord s)

end Sys2Proof.Machine
end

