-- ==== Sys2Proof/Machine/Flags.lean ====
section
/-!
DEFINITION. The flags of the block (10_state.md R38; there are no condition codes) and the codes of its error conditions
(60_exceptions.md R231).
-/
namespace Sys2Proof.Machine

/-- The error conditions that have an entry action (60_exceptions.md R231). -/
inductive ErrCond where
  | eWrite
  | eDrain
  | eQfull
  | eCfgLabel
  deriving DecidableEq, Repr

/-- `log_code` of a condition (60_exceptions.md R231). -/
def logCode : ErrCond → BitVec 3
  | .eWrite => 1
  | .eDrain => 2
  | .eQfull => 3
  | .eCfgLabel => 4

/-- The flag a condition sets (60_exceptions.md R231); nothing but Reset clears it (10_state.md R38, R24). -/
def setFlag (e : ErrCond) (s : State) : State :=
  match e with
  | .eWrite => { s with errWrite := true }
  | .eDrain => { s with errDrain := true }
  | .eQfull => { s with errQfull := true }
  | .eCfgLabel => { s with cfgFault := true }

/-- Whether a label is `top` or `bottom` (10_state.md R24, 30_encoding.md R89). -/
def labelKnown (label : BitVec 2) : Bool := label == Config.labelTop || label == Config.labelBottom

/-- Whether `Q` holds `QUEUE_DEPTH` entries; never when it is unbounded (43_command_sequencer.md R170). -/
def queueFull (s : State) : Bool :=
  match s.qDepth with
  | none => false
  | some d => d ≤ s.q.length

end Sys2Proof.Machine
end

