-- ==== Sys2Proof/Machine/Ops.lean ====
section
/-!
DEFINITION. The named operations every meaning is written over: output ports, raising an error condition, the request queue,
the receive path, the install, the sequencer's actions, the drain answer, and Reset.
-/
namespace Sys2Proof.Machine

/-- The outcome of a step of this model. -/
abbrev Result := Host.Outcome State Fault Refusal

/-- Put one event on the output ports (log 2). -/
def emit (o : Output) (s : State) : State := { s with outs := s.outs ++ [o] }

/-- `raise E`: the whole entry action of an error condition is its flag and its log event; nothing is saved, no mode changes and
control goes nowhere (60_exceptions.md R231, R238). There is nothing to return from (R239). -/
def raiseErr (e : ErrCond) (s : State) : State := emit (.log (logCode e)) (setFlag e s)

/-- While `CFG_FAULT = 1` every event but Reset is ignored (60_exceptions.md R232): `s` itself, otherwise `t`. -/
def whenUsable (s t : State) : State := if s.cfgFault then s else t

/-! ## Streams towards the PHY -/

/-- `TxWrite(b)` with the answer of the PHY on `tx_fail`, raising `E_WRITE` when it fails (44_external_interfaces.md R212,
43_command_sequencer.md R182). -/
def txWrite (b : Byte) (s : State) : State :=
  let s1 := emit (.txWrite b (!s.txFail)) s
  if s.txFail then raiseErr .eWrite s1 else s1

/-- The drain request at T+250 (43_command_sequencer.md R183). -/
def drainRequest (s : State) : State :=
  { emit .drainReq s with drainDone := false, seqState := .drain }

/-- The event `DrainDone(ok)`: latched in `DRAIN`, ignored in every other state and under `CFG_FAULT` (10_state.md R35,
60_exceptions.md R232). -/
def drainAnswer (ok : Bool) (s : State) : State :=
  if s.cfgFault then s
  else if s.seqState = .drain then { s with drainDone := true, drainOk := ok }
  else s

/-! ## The receive path and the status -/

/-- `Install(st)`: all status registers at once (41_status_interpreter.md R138, 10_state.md R44). -/
def installStatus (st : DeviceStatus) (s : State) : State :=
  { s with stMem := st.mem, stRoute := st.route, stIn := st.inp, stOut := st.out, stPower := st.power, stValid := true }

/-- `RX.MARKER` (40_frame_decoder.md R110): a candidate of exactly 13 bytes between two markers is installed, then a new one opens. -/
def rxMarker (s : State) : State :=
  let s1 := if s.rxSynced ∧ s.rxCnt.toNat = Config.frameLen then installStatus (decodeFrame s.cfgOut4 s.rxBuf) s else s
  { s1 with rxSynced := true, rxCnt := 0 }

/-- `RX.DATA` (40_frame_decoder.md R111, R112): stored and counted while synchronised, ignored before. -/
def rxData (b : Byte) (s : State) : State :=
  if s.rxSynced then
    { s with
      rxBuf := if s.rxCnt.toNat < Config.frameLen then s.rxBuf.setIfInBounds s.rxCnt.toNat b else s.rxBuf
      rxCnt := if s.rxCnt.toNat < Config.rxCntMax then s.rxCnt + 1 else s.rxCnt }
  else s

/-- The event `RxByte(b)` (40_frame_decoder.md R110 to R114). -/
def rxByte (b : Byte) (s : State) : State :=
  if s.cfgFault then s
  else if marker s.cfgLabel = some b then rxMarker s
  else rxData b s

/-- Received bytes one after the other, in the order of arrival (20_memory.md R73). -/
def rxBytes : List Byte → State → State
  | [], s => s
  | b :: bs, s => rxBytes bs (rxByte b s)

/-! ## The request queue -/

/-- `QPush` at the tail (10_state.md R34). -/
def qPush (r : Request) (s : State) : State := { s with q := s.q ++ [r] }

/-- `(CUR_LEN, CUR_CHARS) <- QPop(); IDX <- 0` for the head `r` of a queue `r :: rest` (43_command_sequencer.md R174). -/
def loadRequest (r : Request) (rest : List Request) (s : State) : State :=
  { s with q := rest, curLen := r.len, curChars := r.chars, idx := 0 }

/-! ## The sequencer -/

/-- `IDX <- IDX + 1`: what a skipped character does, and what ends a step (43_command_sequencer.md R177, R184). -/
def nextChar (s : State) : State := { s with idx := s.idx + 1 }

/-- `TIMER <- 0; SEQ_STATE <- SETTLE`: a route step begins (43_command_sequencer.md R175, R178). -/
def beginSettle (s : State) : State := { s with timer := 0, seqState := .settle }

/-- The inner loop of `Advance`: pass over characters that do not parse (43_command_sequencer.md R175), at most `n` of them. -/
def skipChars : Nat → State → State
  | 0, s => s
  | n + 1, s =>
    match curChar s with
    | none => s
    | some c => if (parseDigit c).isSome then s else skipChars n (nextChar s)

/-- The end of `Advance`'s scan of a request: begin the settle delay of the route character at the pointer, or, at the end of the
request, do `rest` (43_command_sequencer.md R175). -/
def settleOr (s rest : State) : State :=
  match curChar s with
  | some _ => beginSettle s
  | none => rest

/-- `Advance` over the current request and then over the requests waiting (43_command_sequencer.md R175, R185). -/
def advanceOver : List Request → State → State
  | [], s =>
    let s1 := skipChars Config.reqMaxLen s
    settleOr s1 { s1 with seqState := .idle }
  | r :: rest, s =>
    let s1 := skipChars Config.reqMaxLen s
    settleOr s1 (advanceOver rest (loadRequest r rest s1))

/-- `Advance()` (43_command_sequencer.md R175). -/
def advance (s : State) : State := advanceOver s.q s

/-- `StartRequest()` (43_command_sequencer.md R174); with an empty queue there is nothing to start (R173). -/
def startRequest (s : State) : State :=
  match s.q with
  | [] => s
  | r :: rest => advance (loadRequest r rest s)

/-- The wire bytes of the character at the pointer, `ENCODE(CUR_CHARS[IDX], IDX)` (43_command_sequencer.md R180); none is `no-op`. -/
def pointerStep (s : State) : Option (Vector Byte 4) := s.curChars[s.idx.toNat]?.bind (encodeStep · (outputIndex s))

/-- `WIRE` latched, byte 0 written, `XMIT` entered (43_command_sequencer.md R180). -/
def startXmit (w : Vector Byte 4) (s : State) : State :=
  { txWrite w[0] { s with wire := w } with timer := 0, seqState := .xmit }

/-- `BeginXmit()` (43_command_sequencer.md R180). Without a route character at the pointer, which R180 excludes, the bytes are free
values (log 16). -/
def beginXmit (s : State) : State :=
  match pointerStep s with
  | some w => startXmit w s
  | none => { startXmit (Config.freeStep s.freeCtr) s with freeCtr := s.freeCtr + 1 }

/-- `SETTLE` at a tick (43_command_sequencer.md R179). -/
def settleTick (s : State) : State :=
  let s1 := { s with timer := s.timer + 1 }
  if s1.timer.toNat = Config.settleMs then beginXmit s1 else s1

/-- The write of a tick in `XMIT`: wire byte `k` when `TIMER = k * STAGGER_MS`, `k = 1, 2, 3` (43_command_sequencer.md R181). -/
def staggeredWrite (s : State) : State :=
  if s.timer.toNat = 1 * Config.staggerMs then txWrite s.wire[1] s
  else if s.timer.toNat = 2 * Config.staggerMs then txWrite s.wire[2] s
  else if s.timer.toNat = 3 * Config.staggerMs then txWrite s.wire[3] s
  else s

/-- `XMIT` at a tick (43_command_sequencer.md R181). -/
def xmitTick (s : State) : State :=
  let s1 := staggeredWrite { s with timer := s.timer + 1 }
  if s1.timer.toNat = Config.drainOffsetMs then drainRequest s1 else s1

/-- `IDX <- IDX + 1; Advance()` (43_command_sequencer.md R184). -/
def endStep (s : State) : State := advance (nextChar s)

/-- `DRAIN` at a tick: wait, or end the step, after `E_DRAIN` when the drain failed (43_command_sequencer.md R183). -/
def drainTick (s : State) : State :=
  if s.drainDone then endStep (if s.drainOk then s else raiseErr .eDrain s) else s

/-- A skipped character (43_command_sequencer.md R177, R191). -/
def skipStep (s : State) : State := whenUsable s (nextChar s)

/-- The route character of digit `d` (43_command_sequencer.md R178, tick `t0`). It stands in `CUR_CHARS[IDX]`, from where it was
fetched and where `BeginXmit` reads it (log 14). -/
def routeStep (d : Byte) (s : State) : State :=
  whenUsable s { beginSettle s with curChars := s.curChars.setIfInBounds s.idx.toNat (0x30 + d) }

/-- A wire step in `WIRE[0..3]` (10_state.md R30, 42_command_encoder.md R157; log 11). -/
def latchWire (w : Vector Byte 4) (s : State) : State := whenUsable s { s with wire := w }

/-! ## Reset -/

/-- The free values of the registers that a Reset leaves unspecified (log 8). -/
def freeValues (n : Nat) : Unspecified :=
  { rxBuf := Config.freeRxBuf n, curLen := BitVec.ofNat 3 (Config.freeCurLen n).val
    curChars := Config.freeCurChars n, wire := Config.freeWire n }

/-- `Reset` (70_reset_and_hazards.md R260) with the unspecified registers at `u`. -/
def resetWith (st : Straps) (u : Unspecified) (s : State) : State :=
  let s1 : State :=
    { s with
      cfgLabel := st.label, cfgIn4 := st.in4, cfgOut4 := st.out4, cfgFault := false
      rts := false, dtr := labelKnown st.label, dsr := labelKnown st.label
      rxSynced := false, rxCnt := 0, rxBuf := u.rxBuf
      stValid := false, stMem := Vector.replicate 4 0, stRoute := Vector.replicate 4 0
      stIn := Vector.replicate 4 false, stOut := Vector.replicate 4 false, stPower := false
      q := [], seqState := .idle, idx := 0, timer := 0
      curLen := u.curLen, curChars := u.curChars, wire := u.wire
      drainDone := false, drainOk := false, errWrite := false, errDrain := false, errQfull := false }
  if labelKnown st.label then s1 else raiseErr .eCfgLabel s1

end Sys2Proof.Machine
end

