-- ==== Sys2Proof/Machine/CommandEncoder.lean ====
section
/-!
DEFINITION. Family 3, CommandEncoder (42_command_encoder.md): its functions, whose results go to `outs` (log 9), and the wire
steps it produces, which go to `WIRE[0..3]` (log 11).
-/
namespace Sys2Proof.Machine

/-- `PARSE` (42_command_encoder.md R151). -/
def execParse (c : Byte) (s : State) : Result := .next (emit (.digit (parseDigit c)) s)

/-- `CMDINT` (42_command_encoder.md R152); for a digit outside 1..9 the result is a free value (log 19). -/
def execCmdint (d : BitVec 4) (i : BitVec 2) (s : State) : Result :=
  .next (emit (.byte (if 1 ≤ d.toNat ∧ d.toNat ≤ 9 then cmdIndex (d.setWidth 8) (i.setWidth 8) else Config.freeCmdIndex d i)) s)

/-- `COMPLEMENT` (42_command_encoder.md R153). -/
def execComplement (v : Byte) (s : State) : Result := .next (emit (.byte (complementByte v)) s)

/-- `ENCODE` (42_command_encoder.md R157). -/
def execEncodeFn (c : Byte) (i : BitVec 2) (s : State) : Result := .next (emit (.step (encodeStep c (i.setWidth 8))) s)

/-- The general wire step (30_encoding.md R84); its complement byte is taken as it stands ("it never checks one", 42 R153). -/
def execWs4General (cmd comp : Byte) (s : State) : Result :=
  .next (latchWire #v[cmd, comp, Config.trailer0, Config.trailer1] s)

/-- The step that routes output 1 to input 1 (30_encoding.md R85). -/
def execWs4Out1In1 (s : State) : Result := .next (latchWire #v[0x00, 0xFF, 0xD5, 0x7B] s)

/-- The step that routes output 1 to input 2 (30_encoding.md R85). -/
def execWs4Out1In2 (s : State) : Result := .next (latchWire #v[0x01, 0xFE, 0xD5, 0x7B] s)

/-- The step that routes output 1 to input 3 (30_encoding.md R85). -/
def execWs4Out1In3 (s : State) : Result := .next (latchWire #v[0x02, 0xFD, 0xD5, 0x7B] s)

/-- The step that routes output 1 to input 4 (30_encoding.md R85). -/
def execWs4Out1In4 (s : State) : Result := .next (latchWire #v[0x03, 0xFC, 0xD5, 0x7B] s)

/-- The step that routes output 2 to input 1 (30_encoding.md R85). -/
def execWs4Out2In1 (s : State) : Result := .next (latchWire #v[0x04, 0xFB, 0xD5, 0x7B] s)

/-- The step that routes output 2 to input 2 (30_encoding.md R85). -/
def execWs4Out2In2 (s : State) : Result := .next (latchWire #v[0x05, 0xFA, 0xD5, 0x7B] s)

/-- The step that routes output 2 to input 3 (30_encoding.md R85). -/
def execWs4Out2In3 (s : State) : Result := .next (latchWire #v[0x06, 0xF9, 0xD5, 0x7B] s)

/-- The step that routes output 2 to input 4 (30_encoding.md R85). -/
def execWs4Out2In4 (s : State) : Result := .next (latchWire #v[0x07, 0xF8, 0xD5, 0x7B] s)

/-- The step that routes output 3 to input 1 (30_encoding.md R85). -/
def execWs4Out3In1 (s : State) : Result := .next (latchWire #v[0x08, 0xF7, 0xD5, 0x7B] s)

/-- The step that routes output 3 to input 2 (30_encoding.md R85). -/
def execWs4Out3In2 (s : State) : Result := .next (latchWire #v[0x09, 0xF6, 0xD5, 0x7B] s)

/-- The step that routes output 3 to input 3 (30_encoding.md R85). -/
def execWs4Out3In3 (s : State) : Result := .next (latchWire #v[0x0A, 0xF5, 0xD5, 0x7B] s)

/-- The step that routes output 3 to input 4 (30_encoding.md R85). -/
def execWs4Out3In4 (s : State) : Result := .next (latchWire #v[0x0B, 0xF4, 0xD5, 0x7B] s)

/-- The step that routes output 4 to input 1 (30_encoding.md R85). -/
def execWs4Out4In1 (s : State) : Result := .next (latchWire #v[0x0C, 0xF3, 0xD5, 0x7B] s)

/-- The step that routes output 4 to input 2 (30_encoding.md R85). -/
def execWs4Out4In2 (s : State) : Result := .next (latchWire #v[0x0D, 0xF2, 0xD5, 0x7B] s)

/-- The step that routes output 4 to input 3 (30_encoding.md R85). -/
def execWs4Out4In3 (s : State) : Result := .next (latchWire #v[0x0E, 0xF1, 0xD5, 0x7B] s)

/-- The step that routes output 4 to input 4 (30_encoding.md R85). -/
def execWs4Out4In4 (s : State) : Result := .next (latchWire #v[0x0F, 0xF0, 0xD5, 0x7B] s)

end Sys2Proof.Machine
end

