-- ==== Sys2Proof/Machine/CommandSequencer.lean ====
section
/-!
DEFINITION. Family 4, CommandSequencer (43_command_sequencer.md): the request characters and the sequencer's timed actions. An
action whose state does not select it does nothing (R173; log 15).
-/
namespace Sys2Proof.Machine

/-- `SKIP`, the sentinel 'x' (43_command_sequencer.md R177). -/
def execSkip (s : State) : Result := .next (skipStep s)

/-- `SKIPINV`, an unparseable character (43_command_sequencer.md R191). -/
def execSkipinv (_c : Byte) (s : State) : Result := .next (skipStep s)

/-- `ROUTE 1`, the character '1' (43_command_sequencer.md R178). -/
def execRoute1 (s : State) : Result := .next (routeStep 1 s)

/-- `ROUTE 2`, the character '2' (43_command_sequencer.md R178). -/
def execRoute2 (s : State) : Result := .next (routeStep 2 s)

/-- `ROUTE 3`, the character '3' (43_command_sequencer.md R178). -/
def execRoute3 (s : State) : Result := .next (routeStep 3 s)

/-- `ROUTE 4`, the character '4' (43_command_sequencer.md R178). -/
def execRoute4 (s : State) : Result := .next (routeStep 4 s)

/-- `ROUTE 5`, the character '5' (43_command_sequencer.md R178). -/
def execRoute5 (s : State) : Result := .next (routeStep 5 s)

/-- `ROUTE 6`, the character '6' (43_command_sequencer.md R178). -/
def execRoute6 (s : State) : Result := .next (routeStep 6 s)

/-- `ROUTE 7`, the character '7' (43_command_sequencer.md R178). -/
def execRoute7 (s : State) : Result := .next (routeStep 7 s)

/-- `ROUTE 8`, the character '8' (43_command_sequencer.md R178). -/
def execRoute8 (s : State) : Result := .next (routeStep 8 s)

/-- `ROUTE 9`, the character '9' (43_command_sequencer.md R178). -/
def execRoute9 (s : State) : Result := .next (routeStep 9 s)

/-- `SEQ.START` (43_command_sequencer.md R173, R174): in `IDLE`, start the head request. -/
def execSeqStart (s : State) : Result :=
  .next (whenUsable s (if s.seqState = .idle then startRequest s else s))

/-- `SEQ.ADVANCE` (43_command_sequencer.md R175). -/
def execSeqAdvance (s : State) : Result := .next (whenUsable s (advance s))

/-- `SEQ.SETTLE` (43_command_sequencer.md R179). -/
def execSeqSettle (s : State) : Result :=
  .next (whenUsable s (if s.seqState = .settle then settleTick s else s))

/-- `SEQ.BEGINXMIT` (43_command_sequencer.md R180). -/
def execSeqBeginXmit (s : State) : Result := .next (whenUsable s (beginXmit s))

/-- `SEQ.XMIT` (43_command_sequencer.md R181). -/
def execSeqXmit (s : State) : Result :=
  .next (whenUsable s (if s.seqState = .xmit then xmitTick s else s))

/-- `SEQ.DRAIN` (43_command_sequencer.md R183): the request at T+250 in `XMIT`, the wait in `DRAIN`. -/
def execSeqDrain (s : State) : Result :=
  .next (whenUsable s
    (if s.seqState = .drain then drainTick s
     else if s.seqState = .xmit ∧ s.timer.toNat = Config.drainOffsetMs then drainRequest s
     else s))

/-- `SEQ.ENDSTEP` (43_command_sequencer.md R184): in `DRAIN` with the drain resolved. -/
def execSeqEndStep (s : State) : Result :=
  .next (whenUsable s (if s.seqState = .drain ∧ s.drainDone then endStep s else s))

end Sys2Proof.Machine
end

