-- ==== Sys2Proof/Machine/FrameDecoder.lean ====
section
/-!
DEFINITION. Family 1, FrameDecoder (40_frame_decoder.md): the received-byte instructions. Each is the event `RxByte` with its
byte, so that a byte whose row does not apply in the state at hand is taken as the byte it then is (30_encoding.md R88; log 13).
-/
namespace Sys2Proof.Machine

/-- `RX.MARKER` under label top (40_frame_decoder.md R110). -/
def execRxMarkerTop (s : State) : Result := .next (rxByte Config.markerTop s)

/-- `RX.MARKER` under label bottom (40_frame_decoder.md R110). -/
def execRxMarkerBottom (s : State) : Result := .next (rxByte Config.markerBottom s)

/-- `RX.DATA` while synchronised (40_frame_decoder.md R111). -/
def execRxDataSynced (b : Byte) (s : State) : Result := .next (rxByte b s)

/-- `RX.DATA` before synchronisation (40_frame_decoder.md R112). -/
def execRxDataUnsynced (b : Byte) (s : State) : Result := .next (rxByte b s)

/-- A status frame as it arrives: its 13 bytes between two start markers (30_encoding.md R80, R86; 40_frame_decoder.md R113; log 12). -/
def execSf13 (f : Vector Byte 13) (s : State) : Result :=
  match marker s.cfgLabel with
  | none => .next s
  | some m => .next (rxBytes (m :: (f.toList ++ [m])) s)

end Sys2Proof.Machine
end

