-- ==== Sys2Proof/Machine/HostPort.lean ====
section
/-!
DEFINITION. The host operations that change state: `SWITCHCMD` (43_command_sequencer.md R170, 44_external_interfaces.md R219)
and `RESET` (70_reset_and_hazards.md R260).
-/
namespace Sys2Proof.Machine

/-- `SWITCHCMD` (43_command_sequencer.md R170): refused under `CFG_FAULT`, for a length above 4, and, with `E_QFULL`, for a full
queue; otherwise pushed. `req_accept` answers in the same event (44_external_interfaces.md R219). -/
def execSwitchcmd (r : Request) (s : State) : Result :=
  if s.cfgFault then .next (emit (.reqAccept false) s)
  else if Config.reqMaxLen < r.len.toNat then .next (emit (.reqAccept false) s)
  else if queueFull s then .next (emit (.reqAccept false) (raiseErr .eQfull s))
  else .next (emit (.reqAccept true) (qPush r s))

/-- `RESET` (70_reset_and_hazards.md R260); the registers it leaves unspecified hold free values afterwards (log 8). -/
def execReset (st : Straps) (s : State) : Result :=
  .next { resetWith st (freeValues s.freeCtr) s with freeCtr := s.freeCtr + 1 }

end Sys2Proof.Machine
end

