-- ==== Sys2Proof/Machine/StatusInterpreter.lean ====
section
/-!
DEFINITION. Family 2, StatusInterpreter (41_status_interpreter.md): the helper functions, `DECODE`, `INSTALL`, `GETSTATUS`.
The result of a function goes to `outs` (log 9).
-/
namespace Sys2Proof.Machine

/-- `getPortNumber` (41_status_interpreter.md R130). -/
def execGetPortNumber (code : Byte) (s : State) : Result := .next (emit (.byte (portNumber code)) s)

/-- `isAvailable` (41_status_interpreter.md R131). -/
def execIsAvailable (byte : Byte) (pos : BitVec 3) (s : State) : Result := .next (emit (.bit (available byte pos.toNat)) s)

/-- `DECODE` (41_status_interpreter.md R137): a pure function of the frame and `CFG_OUT_COUNT`. -/
def execDecodeFn (f : Vector Byte 13) (s : State) : Result := .next (emit (.decoded (decodeFrame s.cfgOut4 f)) s)

/-- `INSTALL` (41_status_interpreter.md R138). -/
def execInstall (st : DeviceStatus) (s : State) : Result := .next (whenUsable s (installStatus st s))

/-- `GETSTATUS` (41_status_interpreter.md R139): a pure read. -/
def execGetstatus (s : State) : Result := .next (emit (.status (statusRead s)) s)

end Sys2Proof.Machine
end

