-- ==== Sys2Proof/Machine/Dispatch.lean ====
section
/-!
DEFINITION. One arm per constructor of Instr, each one direct call of its meaning.
-/
namespace Sys2Proof.Machine

def exec (i : Instr) (s : State) : Host.Outcome State Fault Refusal :=
  match i with
  | .rxMarkerTop => Sys2Proof.Machine.execRxMarkerTop s
  | .rxMarkerBottom => Sys2Proof.Machine.execRxMarkerBottom s
  | .rxDataSynced b => Sys2Proof.Machine.execRxDataSynced b s
  | .rxDataUnsynced b => Sys2Proof.Machine.execRxDataUnsynced b s
  | .skip => Sys2Proof.Machine.execSkip s
  | .route1 => Sys2Proof.Machine.execRoute1 s
  | .route2 => Sys2Proof.Machine.execRoute2 s
  | .route3 => Sys2Proof.Machine.execRoute3 s
  | .route4 => Sys2Proof.Machine.execRoute4 s
  | .route5 => Sys2Proof.Machine.execRoute5 s
  | .route6 => Sys2Proof.Machine.execRoute6 s
  | .route7 => Sys2Proof.Machine.execRoute7 s
  | .route8 => Sys2Proof.Machine.execRoute8 s
  | .route9 => Sys2Proof.Machine.execRoute9 s
  | .skipinv c => Sys2Proof.Machine.execSkipinv c s
  | .ws4General cmd comp => Sys2Proof.Machine.execWs4General cmd comp s
  | .ws4Out1In1 => Sys2Proof.Machine.execWs4Out1In1 s
  | .ws4Out1In2 => Sys2Proof.Machine.execWs4Out1In2 s
  | .ws4Out1In3 => Sys2Proof.Machine.execWs4Out1In3 s
  | .ws4Out1In4 => Sys2Proof.Machine.execWs4Out1In4 s
  | .ws4Out2In1 => Sys2Proof.Machine.execWs4Out2In1 s
  | .ws4Out2In2 => Sys2Proof.Machine.execWs4Out2In2 s
  | .ws4Out2In3 => Sys2Proof.Machine.execWs4Out2In3 s
  | .ws4Out2In4 => Sys2Proof.Machine.execWs4Out2In4 s
  | .ws4Out3In1 => Sys2Proof.Machine.execWs4Out3In1 s
  | .ws4Out3In2 => Sys2Proof.Machine.execWs4Out3In2 s
  | .ws4Out3In3 => Sys2Proof.Machine.execWs4Out3In3 s
  | .ws4Out3In4 => Sys2Proof.Machine.execWs4Out3In4 s
  | .ws4Out4In1 => Sys2Proof.Machine.execWs4Out4In1 s
  | .ws4Out4In2 => Sys2Proof.Machine.execWs4Out4In2 s
  | .ws4Out4In3 => Sys2Proof.Machine.execWs4Out4In3 s
  | .ws4Out4In4 => Sys2Proof.Machine.execWs4Out4In4 s
  | .sf13 f => Sys2Proof.Machine.execSf13 f s
  | .getPortNumber code => Sys2Proof.Machine.execGetPortNumber code s
  | .isAvailable byte pos => Sys2Proof.Machine.execIsAvailable byte pos s
  | .decodeFn f => Sys2Proof.Machine.execDecodeFn f s
  | .install st => Sys2Proof.Machine.execInstall st s
  | .parse c => Sys2Proof.Machine.execParse c s
  | .cmdint d j => Sys2Proof.Machine.execCmdint d j s
  | .complement v => Sys2Proof.Machine.execComplement v s
  | .encodeFn c j => Sys2Proof.Machine.execEncodeFn c j s
  | .getstatus => Sys2Proof.Machine.execGetstatus s
  | .switchcmd r => Sys2Proof.Machine.execSwitchcmd r s
  | .reset st => Sys2Proof.Machine.execReset st s
  | .seqStart => Sys2Proof.Machine.execSeqStart s
  | .seqAdvance => Sys2Proof.Machine.execSeqAdvance s
  | .seqSettle => Sys2Proof.Machine.execSeqSettle s
  | .seqBeginXmit => Sys2Proof.Machine.execSeqBeginXmit s
  | .seqXmit => Sys2Proof.Machine.execSeqXmit s
  | .seqDrain => Sys2Proof.Machine.execSeqDrain s
  | .seqEndStep => Sys2Proof.Machine.execSeqEndStep s

end Sys2Proof.Machine
end

