-- ==== Sys2Proof/Machine/Fetch.lean ====
section
/-!
DEFINITION. How the next instruction is found: the events of a clock edge in the order of 60_exceptions.md R236, the instruction
each event stands for, and the placing of a table word where the next step fetches it.
-/
namespace Sys2Proof.Machine

/-- The input events (00_scope.md R8). -/
inductive Event where
  | reset (st : Straps)
  | getStatus
  | rxByte (b : Byte)
  | switchCmd (r : Request)
  | drainDone (ok : Bool)
  | tick
  deriving DecidableEq, Repr

/-- The first event of an edge and what is left of the edge: `Reset` (which cancels the others), `GetStatus`, `RxByte`,
`SwitchCmd`, `DrainDone`, `Tick` (60_exceptions.md R236). -/
def nextEvent (e : Edge) : Option (Event × Edge) :=
  match e.reset, e.getStatus, e.rx, e.switchCmd, e.drainDone, e.tick with
  | some st, _, _, _, _, _ => some (.reset st, {})
  | none, true, _, _, _, _ => some (.getStatus, { e with getStatus := false })
  | none, false, some b, _, _, _ => some (.rxByte b, { e with rx := none })
  | none, false, none, some r, _, _ => some (.switchCmd r, { e with switchCmd := none })
  | none, false, none, none, some ok, _ => some (.drainDone ok, { e with drainDone := none })
  | none, false, none, none, none, true => some (.tick, { e with tick := false })
  | none, false, none, none, none, false => none

/-- The inputs after an event of the edge `e` was taken: what is left of `e` comes first, if any event is left. -/
def putBack (e : Edge) (rest : List Input) : List Input :=
  if (nextEvent e).isSome then .edge e :: rest else rest

/-- The action of a tick, chosen by `SEQ_STATE` (43_command_sequencer.md R173). -/
def tickInstr (s : State) : Instr :=
  match s.seqState with
  | .idle => .seqStart
  | .settle => .seqSettle
  | .xmit => .seqXmit
  | .drain => .seqDrain

/-- The instruction of one byte of a stream. -/
def byteInstr (st : Stream) (b : Byte) : Option Instr :=
  match decode st [b] with
  | .ok (i, _) => some i
  | .error _ => none

/-- The instruction an event stands for. `DrainDone` has none (it is `drainAnswer`), and a byte received under an unknown label
has none (it is ignored, 60_exceptions.md R232). -/
def eventInstr (ev : Event) (s : State) : Option Instr :=
  match ev with
  | .reset st => some (.reset st)
  | .getStatus => some .getstatus
  | .rxByte b => byteInstr (.rxb s.cfgLabel s.rxSynced) b
  | .switchCmd r => some (.switchcmd r)
  | .drainDone _ => none
  | .tick => some (tickInstr s)

/-- What an event does that stands for no instruction. -/
def eventEffect (ev : Event) (s : State) : State :=
  match ev with
  | .drainDone ok => drainAnswer ok s
  | _ => s

/-- What the next step has to do: run an instruction in a state from which its input is taken, go to a state, or stop. -/
inductive Fetched where
  | run (i : Instr) (s : State)
  | done (s : State)
  | stop (f : Fault)
  | refuse (r : Refusal)
  deriving DecidableEq, Repr

/-- What to run, or `stop`/`refuse` where nothing was found. -/
def fetchedOr (other : Fetched) (i : Option Instr) (s : State) : Fetched :=
  match i with
  | some i => .run i s
  | none => other

/-- The next thing to do. With no input nothing happens (log 1). -/
def fetch (s : State) : Fetched :=
  match s.inputs with
  | [] => .done s
  | .edge e :: rest =>
    match nextEvent e with
    | none => .done { s with inputs := rest }
    | some (ev, left) =>
      let s1 := { s with inputs := putBack left rest, txFail := e.txFail }
      fetchedOr (.done (eventEffect ev s1)) (eventInstr ev s1) s1
  | .char :: rest =>
    fetchedOr (.stop .strayPointer) ((curChar s).bind (byteInstr .rqc)) { s with inputs := rest }
  | .word nbits w :: rest => fetchedOr (.refuse .noEncoding) (decodeTableWord nbits w) { s with inputs := rest }
  | .op i :: rest => .run i { s with inputs := rest }

/-- Place a received byte as the next event of an instance with that label (30_encoding.md R88). -/
def placeRxByte (label : BitVec 2) (b : Byte) (s : State) : State :=
  { s with cfgLabel := label, cfgFault := false, inputs := .edge { rx := some b } :: s.inputs }

/-- Place a request character at the sequence pointer (20_memory.md R79) as the next thing to run. -/
def placeChar (c : Byte) (s : State) : State :=
  { s with idx := 0, curLen := 1, curChars := s.curChars.setIfInBounds 0 c, inputs := .char :: s.inputs }

/-- Place a table word where the next step fetches its instruction (log 18, log 22). -/
def placeWord (nbits w : Nat) (s : State) : State :=
  match tableStream nbits (tableBytes nbits w) with
  | some (.rxb label _) => placeRxByte label (tableByte w 0) s
  | some .rqc => placeChar (tableByte w 0) s
  | _ => { s with inputs := .word nbits w :: s.inputs }

end Sys2Proof.Machine
end

