-- ==== Sys2Proof/Machine/Step.lean ====
section
/-!
DEFINITION. One step: take the next input, find the instruction it stands for, run it.
-/
namespace Sys2Proof.Machine

/-- One event of the block, handled atomically (00_scope.md R8), or one of the model's own inputs (log 10). -/
def step (s : State) : Host.Outcome State Fault Refusal :=
  match fetch s with
  | .run i s1 => exec i s1
  | .done s1 => .next s1
  | .stop f => .fault f
  | .refuse r => .refused r

/-- `s` with the table word `w` placed where `step` fetches next (log 22). -/
def State.withFetchWord (s : State) (nbits w : Nat) : State := placeWord nbits w s

end Sys2Proof.Machine
end

