-- ==== Sys2Proof/Machine/Ports.lean ====
section
/-!
DEFINITION. The output ports that show registers continuously (44_external_interfaces.md R210): control lines, status, flags.
-/
namespace Sys2Proof.Machine

/-- `rts`, `dtr`, `dsr` (44_external_interfaces.md R216). -/
structure ModemPorts where
  rts : Bool
  dtr : Bool
  dsr : Bool
  deriving DecidableEq, Repr

/-- `st_valid`, `st_mem`, `st_route`, `st_in`, `st_out`, `st_power` (44_external_interfaces.md R218). -/
structure StatusPorts where
  valid : Bool
  mem   : Vector Byte 4
  route : Vector Byte 4
  inp   : Vector Bool 4
  out   : Vector Bool 4
  power : Bool
  deriving DecidableEq, Repr

/-- `err_write`, `err_drain`, `err_qfull`, `cfg_fault` (44_external_interfaces.md R221). -/
structure FlagPorts where
  errWrite : Bool
  errDrain : Bool
  errQfull : Bool
  cfgFault : Bool
  deriving DecidableEq, Repr

/-- The control lines show `RTS`, `DTR`, `DSR` (44_external_interfaces.md R216). -/
def modemPorts (s : State) : ModemPorts := { rts := s.rts, dtr := s.dtr, dsr := s.dsr }

/-- The status outputs: the registers while `st_valid`, else all 0 (44_external_interfaces.md R218). -/
def statusPorts (s : State) : StatusPorts :=
  if s.stValid && !s.cfgFault then
    { valid := true, mem := s.stMem, route := s.stRoute, inp := s.stIn, out := s.stOut, power := s.stPower }
  else
    { valid := false, mem := Vector.replicate 4 0, route := Vector.replicate 4 0
      inp := Vector.replicate 4 false, out := Vector.replicate 4 false, power := false }

/-- The flag outputs (44_external_interfaces.md R221). -/
def flagPorts (s : State) : FlagPorts :=
  { errWrite := s.errWrite, errDrain := s.errDrain, errQfull := s.errQfull, cfgFault := s.cfgFault }

end Sys2Proof.Machine
end

