-- ==== Sys2Proof/Safety.lean ====
section
/-!
DEFINITION. What a good state and a good run are, in the terms the claims use: quiescence and "gone wrong" (00_scope.md R11),
the invariant that every step of the hardware keeps, and how a claim reads the output trace.
-/
namespace Sys2Proof.Machine

/-- The TX path is quiescent (43_command_sequencer.md R172). -/
abbrev quiescent (s : State) : Prop := s.seqState = .idle ∧ s.q = []

/-- What a state alone shows of "gone wrong" (00_scope.md R11): `CFG_FAULT` or a sticky error flag. -/
abbrev errorShown (s : State) : Prop := s.cfgFault = true ∨ s.errWrite = true ∨ s.errDrain = true ∨ s.errQfull = true

/-! ## Runs -/

/-- The state after `n` steps, none of which stops. -/
def after : Nat → State → Option State
  | 0, s => some s
  | n + 1, s =>
    match step s with
    | .next t => after n t
    | .fault _ => none
    | .refused _ => none

/-- The state once every input that is still to come has been handled: an input takes at most five steps, the events that can
coincide on one clock edge beside `Reset` (60_exceptions.md R236). -/
def inputsHandled (s : State) : Option State := after (5 * s.inputs.length) s

/-- The state once the inputs of `s` and then the first `n` clock edges of an environment have been handled. -/
def afterEdges (env : Nat → Edge) : Nat → State → Option State
  | 0, s => inputsHandled s
  | n + 1, s => (afterEdges env n s).bind fun t => inputsHandled { t with inputs := t.inputs ++ [.edge (env n)] }

/-- Time goes on: there is always another tick. -/
def timeGoesOn (env : Nat → Edge) : Prop := ∀ n, ∃ m ≥ n, (env m).tick = true

/-- In an environment whose time goes on, the sequencer is from some clock edge on in `DRAIN` for ever (00_scope.md R11,
70_reset_and_hazards.md R271; log 25). -/
def heldInDrain (env : Nat → Edge) (s : State) : Prop :=
  timeGoesOn env ∧ ∃ n, ∀ m ≥ n, ∃ t, afterEdges env m s = some t ∧ t.seqState = .drain

/-- "Gone wrong" (00_scope.md R11): after some step on the inputs of `s` or some clock edge of the environment `CFG_FAULT` or a sticky
error flag is set, or the sequencer is held in `DRAIN` for ever. -/
def goneWrong (env : Nat → Edge) (s : State) : Prop :=
  (∃ n t, after n s = some t ∧ errorShown t) ∨ (∃ n t, afterEdges env n s = some t ∧ errorShown t) ∨ heldInDrain env s

/-! ## The invariant -/

/-- `CFG_FAULT` and the control lines are what the label makes them (10_state.md R24, R25). -/
abbrev configOk (s : State) : Prop :=
  s.cfgFault = !labelKnown s.cfgLabel ∧ s.rts = false ∧ s.dtr = labelKnown s.cfgLabel ∧ s.dsr = labelKnown s.cfgLabel

/-- The invariants of the RX state (40_frame_decoder.md R116). -/
abbrev rxOk (s : State) : Prop :=
  s.rxCnt.toNat ≤ Config.rxCntMax ∧ (s.rxSynced = false → s.rxCnt = 0 ∧ s.stValid = false) ∧
    ∀ k : Fin 13, k.val < s.rxCnt.toNat → marker s.cfgLabel ≠ some s.rxBuf[k]

/-- Fields that a configuration does not have hold 0, and all do before the first install (10_state.md R32, R33, R40). -/
abbrev statusOk (s : State) : Prop :=
  (s.cfgOut4 = false → s.stMem[2] = 0 ∧ s.stMem[3] = 0 ∧ s.stRoute[2] = 0 ∧ s.stRoute[3] = 0 ∧ s.stOut = Vector.replicate 4 false) ∧
    (s.stValid = false → s.stMem = Vector.replicate 4 0 ∧ s.stRoute = Vector.replicate 4 0 ∧
      s.stIn = Vector.replicate 4 false ∧ s.stOut = Vector.replicate 4 false ∧ s.stPower = false)

/-- Queue entries are 0..4 characters long, and `Q` never exceeds `QUEUE_DEPTH`, a positive integer or unbounded (10_state.md R34,
00_scope.md R5). -/
abbrev queueOk (s : State) : Prop :=
  (∀ r ∈ s.q, r.len.toNat ≤ Config.reqMaxLen) ∧ ∀ d ∈ s.qDepth, 0 < d ∧ s.q.length ≤ d

/-- The digit of the request character at the sequence pointer, if it is a route character. -/
def currentDigit (s : State) : Option Byte := (curChar s).bind parseDigit

/-- The ranges of the sequencer's registers, and what holds in each running state (10_state.md R28 to R30). -/
abbrev sequencerOk (s : State) : Prop :=
  s.idx.toNat ≤ 4 ∧ s.curLen.toNat ≤ 4 ∧ s.timer.toNat ≤ Config.settleMs ∧
    (s.seqState ≠ .idle → (currentDigit s).isSome = true) ∧
    (s.seqState = .settle → s.timer.toNat < Config.settleMs) ∧
    (s.seqState = .xmit → s.timer.toNat < Config.drainOffsetMs ∧ (curChar s).bind (encodeStep · (outputIndex s)) = some s.wire)

/-- Under `CFG_FAULT` nothing has happened since reset (60_exceptions.md R232). -/
abbrev faultOk (s : State) : Prop :=
  s.cfgFault = true → s.seqState = .idle ∧ s.q = [] ∧ s.rxSynced = false ∧ s.drainDone = false ∧ s.drainOk = false ∧
    s.errWrite = false ∧ s.errDrain = false ∧ s.errQfull = false

/-- Only clock edges are still to come: none of the model's own inputs (log 10). -/
def Input.isEdge : Input → Bool
  | .edge _ => true
  | .char => false
  | .word _ _ => false
  | .op _ => false

/-- Every input still to come is a clock edge. -/
abbrev edgesOnly (s : State) : Prop := ∀ x ∈ s.inputs, x.isEdge = true

/-- The invariant of the hardware. -/
abbrev Inv (s : State) : Prop :=
  configOk s ∧ rxOk s ∧ statusOk s ∧ queueOk s ∧ sequencerOk s ∧ faultOk s ∧ edgesOnly s

/-! ## Reading the inputs and the output trace -/

/-- A clock edge with nothing but a tick, on which the PHY answers a write with `fail` iff `fails`. -/
def tickInput (fails : Bool) : Input := .edge { tick := true, txFail := fails }

/-- No Reset is still to come. -/
def Input.noReset : Input → Bool
  | .edge e => e.reset.isNone
  | .char => true
  | .word _ _ => true
  | .op _ => true

/-- The bytes written to the TX stream, in order, whatever the PHY answered. -/
def txBytes (os : List Output) : List Byte :=
  os.filterMap fun o => match o with
    | .txWrite b _ => some b
    | _ => none

/-- The codes put on the log port, in order (60_exceptions.md R231). -/
def logCodes (os : List Output) : List (BitVec 3) :=
  os.filterMap fun o => match o with
    | .log code => some code
    | _ => none

/-- The outputs of one write of `b` that the PHY answers with `fail` iff `fails` (43_command_sequencer.md R182). -/
def writeOutputs (b : Byte) (fails : Bool) : List Output :=
  if fails then [.txWrite b false, .log 1] else [.txWrite b true]

/-- The four bytes of the step with command index `v` (30_encoding.md R84). -/
def stepBytes (v : Byte) : List Byte := [v, ~~~v, 0xD5, 0x7B]

/-- How much of the current step is on the TX stream: bytes 0 to `TIMER div 50` in `XMIT` (43_command_sequencer.md R181). -/
def writtenOfStep (s : State) : List Byte :=
  if s.seqState = .xmit then s.wire.toList.take (s.timer.toNat / Config.staggerMs + 1) else []

/-- The TX stream is whole steps followed by the written part of the current one (20_memory.md R74). -/
def txStreamWhole (s : State) : Prop := ∃ cmds : List Byte, txBytes s.outs = cmds.flatMap stepBytes ++ writtenOfStep s

/-- The state with other values in the three sticky error flags. -/
def withErrorFlags (w d q : Bool) (s : State) : State := { s with errWrite := w, errDrain := d, errQfull := q }

end Sys2Proof.Machine
end

