-- ==== Sys2Proof/Certificates/Slice0/Obligations.lean ====
section
/-!
DEFINITION. The statements for the provers, in the order of OBLIGATIONS.json.
-/
open Sys2Proof
open Sys2Proof.Machine

/-! ## Encodings -/

/-- Decoding the bytes of a well-formed instruction, in any stream it belongs to and whatever bytes follow, gives it back
(30_encoding.md R82, R84, R86, R88). -/
def Obligations.EncodeThenDecodeGivesInstruction : Prop :=
  ∀ (st : Stream) (i : Instr) (rest : List Byte), i.wellFormed = true → i.belongsTo st = true →
    ∃ bytes, encode i = some bytes ∧ decode st (bytes ++ rest) = .ok (i, rest)

/-- What the decoder reads is what the encoder writes, byte for byte, and it belongs to the stream it was read from. -/
def Obligations.DecodedInstructionEncodesToItsBytes : Prop :=
  ∀ (st : Stream) (i : Instr) (bytes rest : List Byte), decode st bytes = .ok (i, rest) →
    i.belongsTo st = true ∧ ∃ own, encode i = some own ∧ bytes = own ++ rest

/-- Words of the encoding tables: the sixteen wire steps, every other wire step the general one, received bytes and a frame
(30_encoding.md R84, R85, R86, R88), and request characters (R82). The model's choices in it: a step whose second byte is not the
complement, which no encoder writes (R84), decodes to the general wire step (log 19), and `decodeTableWord` reads 8 bits as a marker by
value and else as a request character, and 32 bits as a wire step (log 18). -/
def Obligations.TableWordsDecodeAsListed : Prop :=
  (∀ (k : Fin 16) (rest : List Byte),
    decode .ws4 (BitVec.ofNat 8 k.val :: BitVec.ofNat 8 (255 - k.val) :: 0xD5 :: 0x7B :: rest) =
      .ok ([Instr.ws4Out1In1, .ws4Out1In2, .ws4Out1In3, .ws4Out1In4, .ws4Out2In1, .ws4Out2In2, .ws4Out2In3, .ws4Out2In4,
        .ws4Out3In1, .ws4Out3In2, .ws4Out3In3, .ws4Out3In4, .ws4Out4In1, .ws4Out4In2, .ws4Out4In3, .ws4Out4In4][k.val], rest)) ∧
  (∀ (cmd comp : Byte) (rest : List Byte), 16 ≤ cmd.toNat ∨ cmd.toNat + comp.toNat ≠ 255 →
    decode .ws4 (cmd :: comp :: 0xD5 :: 0x7B :: rest) = .ok (.ws4General cmd comp, rest)) ∧
  decode (.rxb 0b10 true) [0x62] = .ok (.rxMarkerTop, []) ∧ decode (.rxb 0b01 false) [0x61] = .ok (.rxMarkerBottom, []) ∧
  decode (.rxb 0b10 true) [0x61] = .ok (.rxDataSynced 0x61, []) ∧ decode (.rxb 0b01 false) [0x62] = .ok (.rxDataUnsynced 0x62, []) ∧
  decode (.rxb 0b01 true) [0x62] = .ok (.rxDataSynced 0x62, []) ∧ decode (.rxb 0b10 false) [0x61] = .ok (.rxDataUnsynced 0x61, []) ∧
  decode .sf13 [4, 4, 4, 4, 8, 8, 8, 8, 0, 1, 0, 0, 0] = .ok (.sf13 #v[4, 4, 4, 4, 8, 8, 8, 8, 0, 1, 0, 0, 0], []) ∧
  decode .rqc [0x78] = .ok (.skip, []) ∧ decode .rqc [0x33] = .ok (.route3, []) ∧ decode .rqc [0x58] = .ok (.skipinv 0x58, []) ∧
  decodeTableWord 8 0x62 = some .rxMarkerTop ∧ decodeTableWord 8 0x61 = some .rxMarkerBottom ∧
  decodeTableWord 8 0x78 = some .skip ∧ decodeTableWord 8 0x33 = some .route3 ∧ decodeTableWord 8 0x58 = some (.skipinv 0x58) ∧
  decodeTableWord 32 0x06F9D57B = some .ws4Out2In3 ∧ decodeTableWord 32 0x14EBD57B = some (.ws4General 0x14 0xEB) ∧
  decodeTableWord 32 0x06F9D57C = none

/-- A received byte is a marker when it equals `CFG_MARKER`, a data byte otherwise; there is no third class (30_encoding.md R88). -/
def Obligations.ReceivedByteClasses : Prop :=
  ∀ (synced : Bool) (b : Byte) (rest : List Byte),
    (b = 0x62 → decode (.rxb 0b10 synced) (b :: rest) = .ok (.rxMarkerTop, rest)) ∧
    (b ≠ 0x62 → decode (.rxb 0b10 synced) (b :: rest) = .ok (if synced then .rxDataSynced b else .rxDataUnsynced b, rest)) ∧
    (b = 0x61 → decode (.rxb 0b01 synced) (b :: rest) = .ok (.rxMarkerBottom, rest)) ∧
    (b ≠ 0x61 → decode (.rxb 0b01 synced) (b :: rest) = .ok (if synced then .rxDataSynced b else .rxDataUnsynced b, rest))

/-- The three classes of a request character are decided by its value alone, and the digit of `ROUTE d` is `d = c - 0x30`
(30_encoding.md R82). -/
def Obligations.RequestCharacterClasses : Prop :=
  ∀ (c : Byte) (i : Instr) (rest : List Byte), decode .rqc (c :: rest) = .ok (i, rest) →
    (i = .skip ↔ c = 0x78) ∧
    (i = .skipinv c ↔ c ≠ 0x78 ∧ ¬ (0x31 ≤ c.toNat ∧ c.toNat ≤ 0x39)) ∧
    (i ∈ [Instr.route1, .route2, .route3, .route4, .route5, .route6, .route7, .route8, .route9] ↔ 0x31 ≤ c.toNat ∧ c.toNat ≤ 0x39) ∧
    (∀ k : Fin 9, i = [Instr.route1, .route2, .route3, .route4, .route5, .route6, .route7, .route8, .route9][k.val] ↔
      c.toNat - 0x30 = k.val + 1)

/-! ## Fetching an instruction -/

/-- A step runs the instruction of the next event of the clock edge (00_scope.md R8): `Reset` runs `RESET`, `GetStatus` `GETSTATUS`,
`RxByte` what its byte decodes to (nothing under an unknown label), `SwitchCmd` `SWITCHCMD`, and `Tick` the action of `SEQ_STATE`
(43_command_sequencer.md R173); `DrainDone` has no row and is latched by `drainAnswer`. The last three clauses are the model's own
inputs, its choice and no input of the hardware (log 10, log 18): the character at the sequence pointer, a table word, an operation. -/
def Obligations.StepRunsFetchedInstruction : Prop :=
  (∀ (s u : State) (e left : Edge) (rest : List Input) (ev : Event), s.inputs = .edge e :: rest → nextEvent e = some (ev, left) →
    u = { s with inputs := putBack left rest, txFail := e.txFail } →
    (∀ st, ev = .reset st → step s = exec (.reset st) u) ∧
    (ev = .getStatus → step s = exec .getstatus u) ∧
    (∀ b i, ev = .rxByte b → decode (.rxb s.cfgLabel s.rxSynced) [b] = .ok (i, []) → step s = exec i u) ∧
    (∀ b, ev = .rxByte b → marker s.cfgLabel = none → step s = .next u) ∧
    (∀ r, ev = .switchCmd r → step s = exec (.switchcmd r) u) ∧
    (∀ ok, ev = .drainDone ok → step s = .next (drainAnswer ok u)) ∧
    (ev = .tick → s.seqState = .idle → step s = exec .seqStart u) ∧
    (ev = .tick → s.seqState = .settle → step s = exec .seqSettle u) ∧
    (ev = .tick → s.seqState = .xmit → step s = exec .seqXmit u) ∧
    (ev = .tick → s.seqState = .drain → step s = exec .seqDrain u)) ∧
  (∀ (s : State) (rest : List Input) (c : Byte) (i : Instr),
    s.inputs = .char :: rest → s.idx.toNat < s.curLen.toNat → s.curChars[s.idx.toNat]? = some c →
    decode .rqc [c] = .ok (i, []) → step s = exec i { s with inputs := rest }) ∧
  (∀ (s : State) (rest : List Input) (nbits w : Nat) (i : Instr),
    s.inputs = .word nbits w :: rest → decodeTableWord nbits w = some i → step s = exec i { s with inputs := rest }) ∧
  (∀ (s : State) (rest : List Input) (i : Instr), s.inputs = .op i :: rest → step s = exec i { s with inputs := rest })

/-- The events of one clock edge are taken one at a time in the order of 60_exceptions.md R236; `Reset` cancels all the others. -/
def Obligations.CoincidingEventsAreTakenInOrder : Prop :=
  ∀ e : Edge,
    (∀ st, e.reset = some st → nextEvent e = some (.reset st, {})) ∧
    (e.reset = none →
      (e.getStatus = true → nextEvent e = some (.getStatus, { e with getStatus := false })) ∧
      (e.getStatus = false →
        (∀ b, e.rx = some b → nextEvent e = some (.rxByte b, { e with rx := none })) ∧
        (e.rx = none →
          (∀ r, e.switchCmd = some r → nextEvent e = some (.switchCmd r, { e with switchCmd := none })) ∧
          (e.switchCmd = none →
            (∀ ok, e.drainDone = some ok → nextEvent e = some (.drainDone ok, { e with drainDone := none })) ∧
            (e.drainDone = none →
              (e.tick = true → nextEvent e = some (.tick, { e with tick := false })) ∧
              (e.tick = false → nextEvent e = none))))))

/-- A `GetStatus` on the clock edge of a closing marker, of either label, answers with the status from before the install; the install
then happens in the next step (60_exceptions.md R236, 92_eei_decisions.md D27). -/
def Obligations.StatusReadPrecedesCoincidingInstall : Prop :=
  ∀ (s : State) (rest : List Input) (m : Byte), s.cfgFault = false → marker s.cfgLabel = some m → s.rxSynced = true → s.rxCnt = 13 →
    s.inputs = .edge { getStatus := true, rx := some m } :: rest →
    ∃ t u, step s = .next t ∧ t.outs = s.outs ++ [.status (statusRead s)] ∧ t.stMem = s.stMem ∧ t.stValid = s.stValid ∧
      step t = .next u ∧ u.outs = t.outs ∧ u.inputs = rest ∧ u.stValid = true ∧
      u.stMem = (decodeFrame s.cfgOut4 s.rxBuf).mem ∧ u.stRoute = (decodeFrame s.cfgOut4 s.rxBuf).route ∧
      u.stIn = (decodeFrame s.cfgOut4 s.rxBuf).inp ∧ u.stOut = (decodeFrame s.cfgOut4 s.rxBuf).out ∧
      u.stPower = (decodeFrame s.cfgOut4 s.rxBuf).power

/-! ## FrameDecoder -/

/-- `RX.MARKER` on an instance with that label closes the candidate and opens a new one; a candidate of exactly 13 bytes, and no
other, is decoded into the status registers. Nothing else changes (40_frame_decoder.md R110, R113). -/
def Obligations.MarkerClosesCandidate : Prop :=
  ∀ (s : State) (i : Instr), s.cfgFault = false →
    (i = .rxMarkerTop ∧ s.cfgLabel = 0b10 ∨ i = .rxMarkerBottom ∧ s.cfgLabel = 0b01) →
    (s.rxSynced = true ∧ s.rxCnt.toNat = 13 →
      exec i s = .next { s with
        rxSynced := true, rxCnt := 0, stValid := true
        stMem := (decodeFrame s.cfgOut4 s.rxBuf).mem, stRoute := (decodeFrame s.cfgOut4 s.rxBuf).route
        stIn := (decodeFrame s.cfgOut4 s.rxBuf).inp, stOut := (decodeFrame s.cfgOut4 s.rxBuf).out
        stPower := (decodeFrame s.cfgOut4 s.rxBuf).power }) ∧
    (¬ (s.rxSynced = true ∧ s.rxCnt.toNat = 13) → exec i s = .next { s with rxSynced := true, rxCnt := 0 })

/-- `RX.DATA` while synchronised stores the byte at `RX_BUF[RX_CNT]` up to the thirteenth and counts up to 14; nothing else
changes (40_frame_decoder.md R111). -/
def Obligations.SynchronisedDataIsStoredAndCounted : Prop :=
  ∀ (s : State) (b m : Byte), s.cfgFault = false → marker s.cfgLabel = some m → b ≠ m → s.rxSynced = true →
    ∃ t, exec (.rxDataSynced b) s = .next t ∧
      t = { s with rxBuf := t.rxBuf, rxCnt := t.rxCnt } ∧
      (s.rxCnt.toNat < 14 → t.rxCnt.toNat = s.rxCnt.toNat + 1) ∧ (14 ≤ s.rxCnt.toNat → t.rxCnt = s.rxCnt) ∧
      ∀ k : Fin 13, t.rxBuf[k] = if k.val = s.rxCnt.toNat then b else s.rxBuf[k]

/-- `RX.DATA` before the first marker changes no register (40_frame_decoder.md R112). -/
def Obligations.UnsynchronisedDataIsIgnored : Prop :=
  ∀ (s : State) (b m : Byte), s.cfgFault = false → marker s.cfgLabel = some m → b ≠ m → s.rxSynced = false →
    exec (.rxDataUnsynced b) s = .next s

/-- A status frame without the marker value among its bytes, received between two markers, is installed, whatever the receive
path held before (40_frame_decoder.md R113, 41_status_interpreter.md R138). That the row is the frame between two markers is the
model's reading (log 12). -/
def Obligations.StatusFrameIsInstalled : Prop :=
  ∀ (s : State) (f : Vector Byte 13) (m : Byte), s.cfgFault = false → marker s.cfgLabel = some m → (∀ k : Fin 13, f[k] ≠ m) →
    exec (.sf13 f) s = .next { s with
      rxSynced := true, rxCnt := 0, rxBuf := f, stValid := true
      stMem := (decodeFrame s.cfgOut4 f).mem, stRoute := (decodeFrame s.cfgOut4 f).route
      stIn := (decodeFrame s.cfgOut4 f).inp, stOut := (decodeFrame s.cfgOut4 f).out, stPower := (decodeFrame s.cfgOut4 f).power }

/-- A frame with the marker value among its bytes is split and never installed: the status after it is the one its opening marker
left (20_memory.md R68, 70_reset_and_hazards.md R270; the row's reading: log 12). -/
def Obligations.FrameHoldingMarkerIsNeverInstalled : Prop :=
  ∀ (s u : State) (f : Vector Byte 13) (m : Byte) (k : Fin 13), s.cfgFault = false → marker s.cfgLabel = some m → f[k] = m →
    u = rxByte m s →
    ∃ t, exec (.sf13 f) s = .next t ∧ t.stValid = u.stValid ∧ t.stMem = u.stMem ∧ t.stRoute = u.stRoute ∧ t.stIn = u.stIn ∧
      t.stOut = u.stOut ∧ t.stPower = u.stPower ∧ t.rxSynced = true ∧ t.rxCnt = 0

/-! ## StatusInterpreter -/

/-- `getPortNumber` is 4 for 8, 3 for 4 and the identity otherwise; it changes no register (41_status_interpreter.md R130).
Its result stands in `outs`, the model's choice (log 9). -/
def Obligations.PortNumberOfCode : Prop :=
  ∀ (s : State) (code : Byte), ∃ r : Byte, exec (.getPortNumber code) s = .next { s with outs := s.outs ++ [.byte r] } ∧
    (code = 8 → r = 4) ∧ (code = 4 → r = 3) ∧ (code ≠ 8 → code ≠ 4 → r = code)

/-- `isAvailable` is bit `pos` of the byte, that is `(byte >> pos) & 1`; it changes no register (41_status_interpreter.md R131).
Its result stands in `outs`, the model's choice (log 9). -/
def Obligations.AvailabilityIsTheBit : Prop :=
  ∀ (s : State) (byte : Byte) (pos : BitVec 3), ∃ r : Bool,
    exec (.isAvailable byte pos) s = .next { s with outs := s.outs ++ [.bit r] } ∧ (r = true ↔ (byte >>> pos.toNat) &&& 1 = 1)

/-- `DECODE` yields the record of the frame's selector codes, flag bits and power byte for the configured output count, and
changes no register (41_status_interpreter.md R132 to R137). Its result stands in `outs`, the model's choice (log 9). -/
def Obligations.DecodedRecordOfFrame : Prop :=
  ∀ (s : State) (f : Vector Byte 13), ∃ d : DeviceStatus,
    exec (.decodeFn f) s = .next { s with outs := s.outs ++ [.decoded d] } ∧
    (∀ k : Fin 4, (d.inp[k] = true ↔ (f[8] >>> (7 - k.val)) &&& 1 = 1)) ∧
    (d.power = true ↔ f[9] ≠ 0) ∧
    (∀ k : Fin 4, k.val < 2 ∨ s.cfgOut4 = true →
      d.mem[k] = portNumber f[k.val] ∧ d.route[k] = portNumber (f[k.val + 4])) ∧
    (s.cfgOut4 = true → ∀ k : Fin 4, (d.out[k] = true ↔ (f[8] >>> (3 - k.val)) &&& 1 = 1)) ∧
    (s.cfgOut4 = false → d.mem[2] = 0 ∧ d.mem[3] = 0 ∧ d.route[2] = 0 ∧ d.route[3] = 0 ∧ ∀ k : Fin 4, d.out[k] = false)

/-- `INSTALL` writes every status register and nothing else (41_status_interpreter.md R138). -/
def Obligations.InstallWritesWholeStatus : Prop :=
  ∀ (s : State) (d : DeviceStatus), s.cfgFault = false →
    exec (.install d) s = .next { s with
      stMem := d.mem, stRoute := d.route, stIn := d.inp, stOut := d.out, stPower := d.power, stValid := true }

/-- `GETSTATUS` answers `EMPTY` before the first frame and under `CFG_FAULT`, else the record with the fields the configuration
has; it changes no register (41_status_interpreter.md R139). -/
def Obligations.StatusReadAnswersLastInstall : Prop :=
  ∀ s : State,
    (s.cfgFault = true ∨ s.stValid = false → exec .getstatus s = .next { s with outs := s.outs ++ [.status none] }) ∧
    (s.cfgFault = false → s.stValid = true → ∃ r : StatusRecord,
      exec .getstatus s = .next { s with outs := s.outs ++ [.status (some r)] } ∧ r.inputStatus = s.stIn ∧ r.power = s.stPower ∧
      (s.cfgOut4 = true → r.memory = s.stMem.toList ∧ r.route = s.stRoute.toList ∧ r.outputStatus = some s.stOut) ∧
      (s.cfgOut4 = false → r.memory = [s.stMem[0], s.stMem[1]] ∧ r.route = [s.stRoute[0], s.stRoute[1]] ∧ r.outputStatus = none))

/-- The status ports show the status registers while `st_valid`, and 0 otherwise (44_external_interfaces.md R218). -/
def Obligations.StatusPortsShowRegisters : Prop :=
  ∀ s : State, ((statusPorts s).valid = true ↔ s.stValid = true ∧ s.cfgFault = false) ∧
    ((statusPorts s).valid = true →
      (statusPorts s).mem = s.stMem ∧ (statusPorts s).route = s.stRoute ∧ (statusPorts s).inp = s.stIn ∧
      (statusPorts s).out = s.stOut ∧ (statusPorts s).power = s.stPower) ∧
    ((statusPorts s).valid = false → ∀ k : Fin 4,
      (statusPorts s).mem[k] = 0 ∧ (statusPorts s).route[k] = 0 ∧ (statusPorts s).inp[k] = false ∧ (statusPorts s).out[k] = false ∧
      (statusPorts s).power = false)

/-! ## CommandEncoder -/

/-- `PARSE` yields the digit of '1'..'9' and fails on every other character; it changes no register (42_command_encoder.md R151).
Its result stands in `outs`, the model's choice (log 9). -/
def Obligations.ParsedDigit : Prop :=
  ∀ (s : State) (c : Byte), ∃ d : Option Byte, exec (.parse c) s = .next { s with outs := s.outs ++ [.digit d] } ∧
    (0x31 ≤ c.toNat ∧ c.toNat ≤ 0x39 → d = some (BitVec.ofNat 8 (c.toNat - 0x30))) ∧
    (¬ (0x31 ≤ c.toNat ∧ c.toNat ≤ 0x39) → d = none)

/-- `CMDINT(d, i)` is exactly `i * 4 + (d - 1)` for the digits 1..9, without wrapping; it changes no register
(42_command_encoder.md R152). Its result stands in `outs`, the model's choice (log 9). -/
def Obligations.CommandIndexIsExact : Prop :=
  ∀ (s : State) (d : BitVec 4) (i : BitVec 2), 1 ≤ d.toNat → d.toNat ≤ 9 →
    ∃ r : Byte, exec (.cmdint d i) s = .next { s with outs := s.outs ++ [.byte r] } ∧ r.toNat = i.toNat * 4 + (d.toNat - 1)

/-- `COMPLEMENT(v)` is `255 - v`, the bitwise NOT; it changes no register (42_command_encoder.md R153).
Its result stands in `outs`, the model's choice (log 9). -/
def Obligations.ComplementByteSumsTo255 : Prop :=
  ∀ (s : State) (v : Byte), ∃ r : Byte, exec (.complement v) s = .next { s with outs := s.outs ++ [.byte r] } ∧
    v.toNat + r.toNat = 255 ∧ r = ~~~v

/-- `ENCODE(c, i)` yields the four wire bytes of the digit, or no-op where `PARSE` fails; it changes no register
(42_command_encoder.md R157, R156). Its result stands in `outs`, the model's choice (log 9). -/
def Obligations.EncodedStepBytes : Prop :=
  ∀ (s : State) (c : Byte) (i : BitVec 2), ∃ r : Option (Vector Byte 4),
    exec (.encodeFn c i) s = .next { s with outs := s.outs ++ [.step r] } ∧
    (¬ (0x31 ≤ c.toNat ∧ c.toNat ≤ 0x39) → r = none) ∧
    (0x31 ≤ c.toNat ∧ c.toNat ≤ 0x39 → ∃ w : Vector Byte 4, r = some w ∧
      w[0].toNat = i.toNat * 4 + (c.toNat - 0x31) ∧ w[0].toNat + w[1].toNat = 255 ∧ w[2] = 0xD5 ∧ w[3] = 0x7B)

/-- For in-domain steps the encoder is invertible: output index and digit are read back from the command byte
(42_command_encoder.md R158). The result of `ENCODE` stands in `outs`, the model's choice (log 9). -/
def Obligations.InDomainStepsAreInvertible : Prop :=
  ∀ (s t : State) (c : Byte) (i : BitVec 2) (w : Vector Byte 4), 0x31 ≤ c.toNat → c.toNat ≤ 0x34 →
    exec (.encodeFn c i) s = .next t → t.outs = s.outs ++ [.step (some w)] →
    i.toNat = w[0].toNat / 4 ∧ c.toNat - 0x30 = w[0].toNat % 4 + 1 ∧ w[0].toNat + w[1].toNat = 255

/-- A wire step puts its four bytes in `WIRE[0..3]` and changes nothing else (10_state.md R30; log 11): row `4 * i + (d - 1)` of
30_encoding.md R85 is output `i + 1`, input `d`; the general step carries its command and complement bytes itself,
whatever they are (log 19). -/
def Obligations.WireStepIsLatched : Prop :=
  ∀ s : State, s.cfgFault = false →
    (∀ k : Fin 16,
      exec ([Instr.ws4Out1In1, .ws4Out1In2, .ws4Out1In3, .ws4Out1In4, .ws4Out2In1, .ws4Out2In2, .ws4Out2In3, .ws4Out2In4,
        .ws4Out3In1, .ws4Out3In2, .ws4Out3In3, .ws4Out3In4, .ws4Out4In1, .ws4Out4In2, .ws4Out4In3, .ws4Out4In4][k.val]) s =
        .next { s with wire := #v[BitVec.ofNat 8 k.val, BitVec.ofNat 8 (255 - k.val), 0xD5, 0x7B] }) ∧
    (∀ cmd comp : Byte, exec (.ws4General cmd comp) s = .next { s with wire := #v[cmd, comp, 0xD5, 0x7B] })

/-! ## CommandSequencer: the queue -/

/-- `SWITCHCMD` is refused under `CFG_FAULT` and for a length above 4 without any other effect, and on a full queue with `E_QFULL`
(flag, log code 3, nothing else); every other request is appended at the tail of `Q`, whatever its characters are and whatever the
sequencer does (43_command_sequencer.md R170). That a queue of more than `QUEUE_DEPTH` entries, which no run reaches, counts as full is
the model's choice (log 5). -/
def Obligations.SwitchRequestIsQueuedOrRefused : Prop :=
  ∀ (s : State) (r : Request),
    (s.cfgFault = true ∨ 4 < r.len.toNat → exec (.switchcmd r) s = .next { s with outs := s.outs ++ [.reqAccept false] }) ∧
    (s.cfgFault = false → r.len.toNat ≤ 4 →
      (∀ d, s.qDepth = some d → d ≤ s.q.length →
        exec (.switchcmd r) s = .next { s with errQfull := true, outs := s.outs ++ [.log 3, .reqAccept false] }) ∧
      ((∀ d, s.qDepth = some d → s.q.length < d) →
        exec (.switchcmd r) s = .next { s with q := s.q ++ [r], outs := s.outs ++ [.reqAccept true] }))

/-- `SEQ.START` in `IDLE` pops the head request and advances from its first character, whatever it holds and whatever waits behind it;
so it begins the settle delay of the head request's first route character, characters before it costing nothing
(43_command_sequencer.md R174, R175). -/
def Obligations.StartRunsHeadRequest : Prop :=
  ∀ (s : State) (r : Request) (rest : List Request), s.cfgFault = false → s.seqState = .idle → s.q = r :: rest →
    (∃ t, exec .seqStart s = .next t ∧
      exec .seqAdvance { s with q := rest, curLen := r.len, curChars := r.chars, idx := 0 } = .next t) ∧
    (∀ j : Fin 4, r.len.toNat ≤ 4 → j.val < r.len.toNat → (∀ k : Fin 4, k < j → parseDigit r.chars[k] = none) →
      (parseDigit r.chars[j]).isSome = true →
      exec .seqStart s = .next { s with
        q := rest, curLen := r.len, curChars := r.chars, idx := BitVec.ofNat 3 j.val, timer := 0, seqState := .settle })

/-- A tick on a quiescent TX path changes nothing, whatever the level of `tx_fail` (43_command_sequencer.md R172). -/
def Obligations.QuiescentTickChangesNothing : Prop :=
  ∀ (s : State) (rest : List Input) (fails : Bool), quiescent s → s.inputs = tickInput fails :: rest →
    step s = .next { s with inputs := rest, txFail := fails }

/-- Requests of nothing but skipped characters, however many wait, are all completed within the tick that starts the first:
`Q` is empty, the sequencer is `IDLE`, and nothing was put on any output port (43_command_sequencer.md R175, R177, R191). -/
def Obligations.AllSkipRequestsTakeOneTick : Prop :=
  ∀ s : State, s.cfgFault = false → s.seqState = .idle →
    (∀ r ∈ s.q, r.len.toNat ≤ 4 ∧ ∀ k : Fin 4, k.val < r.len.toNat → parseDigit r.chars[k] = none) →
    ∃ t, exec .seqStart s = .next t ∧ t.q = [] ∧ t.seqState = .idle ∧
      t = { s with q := t.q, curLen := t.curLen, curChars := t.curChars, idx := t.idx }

/-! ## CommandSequencer: request characters and Advance -/

/-- `SKIP` and `SKIPINV` pass on to the next character and do nothing else (43_command_sequencer.md R177, R191). -/
def Obligations.SkippedCharacterOnlyAdvancesIndex : Prop :=
  ∀ (s : State) (i : Instr), s.cfgFault = false → (i = .skip ∨ ∃ c, i = .skipinv c) →
    ∃ t, exec i s = .next t ∧ t = { s with idx := t.idx } ∧ (s.idx.toNat ≤ 4 → t.idx.toNat = s.idx.toNat + 1)

/-- `ROUTE d` starts the settle delay and changes nothing else (43_command_sequencer.md R178, R175) where its character stands at the
sequence pointer, from which it is fetched. Run on its own over another character it puts its own there: the model's choice (log 14),
not the spec's. -/
def Obligations.RouteCharacterStartsSettleDelay : Prop :=
  ∀ (s : State) (k : Fin 9), s.cfgFault = false →
    ∃ t, exec ([Instr.route1, .route2, .route3, .route4, .route5, .route6, .route7, .route8, .route9][k.val]) s = .next t ∧
      t = { s with timer := 0, seqState := .settle, curChars := t.curChars } ∧
      (∀ j : Fin 4, t.curChars[j] = if j.val = s.idx.toNat then BitVec.ofNat 8 (0x31 + k.val) else s.curChars[j]) ∧
      (s.curChars[s.idx.toNat]? = some (BitVec.ofNat 8 (0x31 + k.val)) → t.curChars = s.curChars)

/-- The model's own stops, each by name, and that nothing else stops: a step stops only on one of the model's own inputs, where no
character stands at the sequence pointer or no row of the table matches the word. These inputs and their stops are the model's choice
(log 10, log 18); the events of the hardware (00_scope.md R8) never stop it. -/
def Obligations.FetchStopsByName : Prop :=
  ∀ s : State,
    (∀ rest, s.inputs = .char :: rest → s.curLen.toNat ≤ s.idx.toNat → step s = .fault .strayPointer) ∧
    (∀ rest nbits w, s.inputs = .word nbits w :: rest → decodeTableWord nbits w = none → step s = .refused .noEncoding) ∧
    (∀ f, step s = .fault f → ∃ rest, s.inputs = .char :: rest ∧ curChar s = none ∧ f = .strayPointer) ∧
    (∀ f, step s = .refused f →
      ∃ rest nbits w, s.inputs = .word nbits w :: rest ∧ decodeTableWord nbits w = none ∧ f = .noEncoding)

/-- Every instruction of the table completes, in every state and with every operand: no meaning ends in a fault or a refusal. Where
the spec states no result, in states no run reaches, it is the model's choice that a free value stands in (log 16, log 19). -/
def Obligations.EveryInstructionCompletes : Prop := ∀ (i : Instr) (s : State), ∃ t, exec i s = .next t

/-- `Advance` begins the settle delay of the first route character at or after `IDX` (43_command_sequencer.md R175, R176). -/
def Obligations.AdvanceStopsAtRouteCharacter : Prop :=
  ∀ (s : State) (j : Fin 4), s.cfgFault = false → s.curLen.toNat ≤ 4 → s.idx.toNat ≤ j.val → j.val < s.curLen.toNat →
    (∀ k : Fin 4, s.idx.toNat ≤ k.val → k < j → parseDigit s.curChars[k] = none) →
    (parseDigit s.curChars[j]).isSome = true →
    exec .seqAdvance s = .next { s with idx := BitVec.ofNat 3 j.val, timer := 0, seqState := .settle }

/-- `Advance` over a request without a further route character ends it: `IDLE` when `Q` is empty, else the next request is started
in the same tick (43_command_sequencer.md R175, R185). -/
def Obligations.AdvanceEndsRequest : Prop :=
  ∀ s : State, s.cfgFault = false → s.curLen.toNat ≤ 4 → s.idx.toNat ≤ s.curLen.toNat →
    (∀ k : Fin 4, s.idx.toNat ≤ k.val → k.val < s.curLen.toNat → parseDigit s.curChars[k] = none) →
    (s.q = [] → exec .seqAdvance s = .next { s with idx := s.curLen, seqState := .idle }) ∧
    (∀ r rest, s.q = r :: rest →
      exec .seqAdvance s = exec .seqAdvance { s with q := rest, curLen := r.len, curChars := r.chars, idx := 0 })

/-- `Advance` ends in `SETTLE` at a route character or in `IDLE` with an empty queue, pops requests in order, and touches nothing but
the request and the sequence pointer (43_command_sequencer.md R175). -/
def Obligations.AdvanceEndsInSettleOrIdle : Prop :=
  ∀ s : State, s.cfgFault = false → s.curLen.toNat ≤ 4 → (∀ r ∈ s.q, r.len.toNat ≤ 4) →
    ∃ t, exec .seqAdvance s = .next t ∧
      (t.seqState = .settle ∧ t.timer = 0 ∧ (currentDigit t).isSome = true ∨ t.seqState = .idle ∧ t.q = []) ∧
      (∃ done, s.q = done ++ t.q) ∧
      t = { s with q := t.q, curLen := t.curLen, curChars := t.curChars, idx := t.idx, timer := t.timer, seqState := t.seqState }

/-! ## CommandSequencer: the phases of a route step -/

/-- `SEQ.SETTLE` counts a tick and, before the 500th, does nothing else (43_command_sequencer.md R179). -/
def Obligations.SettleCountsTicks : Prop :=
  ∀ s : State, s.cfgFault = false → s.seqState = .settle → s.timer.toNat + 1 < 500 →
    ∃ t, exec .seqSettle s = .next t ∧ t.timer.toNat = s.timer.toNat + 1 ∧ t = { s with timer := t.timer }

/-- At T, which `SEQ.SETTLE` reaches at the 500th tick and `SEQ.BEGINXMIT` performs, the wire bytes of the character at the
pointer are latched and the first is written, with `E_WRITE` when the PHY refuses it (43_command_sequencer.md R180, R182). -/
def Obligations.TransmissionBeginsAtT : Prop :=
  ∀ (s : State) (c d : Byte) (i : Instr), s.cfgFault = false →
    s.curChars[s.idx.toNat]? = some c → parseDigit c = some d →
    (i = .seqBeginXmit ∨ i = .seqSettle ∧ s.seqState = .settle ∧ s.timer.toNat = 499) →
    ∃ w : Vector Byte 4, w[0].toNat = s.idx.toNat * 4 + (d.toNat - 1) ∧ w[0].toNat + w[1].toNat = 255 ∧ w[2] = 0xD5 ∧ w[3] = 0x7B ∧
      exec i s = .next { s with
        wire := w, timer := 0, seqState := .xmit, outs := s.outs ++ writeOutputs w[0] s.txFail, errWrite := s.errWrite || s.txFail }

/-- `SEQ.XMIT` writes wire byte `k` when `TIMER` becomes `50 * k`, with `E_WRITE` when the PHY refuses it, and goes on in either
case (43_command_sequencer.md R181, R182). -/
def Obligations.WireBytesAreStaggered : Prop :=
  ∀ (s : State) (k : Fin 4), s.cfgFault = false → s.seqState = .xmit → 1 ≤ k.val → s.timer.toNat + 1 = k.val * 50 →
    ∃ t, exec .seqXmit s = .next t ∧ t.timer.toNat = k.val * 50 ∧
      t = { s with timer := t.timer, outs := s.outs ++ writeOutputs s.wire[k] s.txFail, errWrite := s.errWrite || s.txFail }

/-- `SEQ.XMIT` at every other tick before T+250 only counts (43_command_sequencer.md R181). -/
def Obligations.XmitIsSilentBetweenWrites : Prop :=
  ∀ s : State, s.cfgFault = false → s.seqState = .xmit → s.timer.toNat + 1 < 250 → (s.timer.toNat + 1) ∉ [50, 100, 150] →
    ∃ t, exec .seqXmit s = .next t ∧ t.timer.toNat = s.timer.toNat + 1 ∧ t = { s with timer := t.timer }

/-- At T+250 `SEQ.XMIT` requests the drain and the wait begins with a cleared answer; `SEQ.DRAIN` is the same request
(43_command_sequencer.md R181, R183; as a row of its own: log 15). -/
def Obligations.DrainIsRequestedAtOffset : Prop :=
  ∀ s : State, s.cfgFault = false → s.seqState = .xmit →
    (s.timer.toNat = 249 →
      exec .seqXmit s = .next { s with timer := 250, drainDone := false, seqState := .drain, outs := s.outs ++ [.drainReq] }) ∧
    (s.timer.toNat = 250 →
      exec .seqDrain s = .next { s with drainDone := false, seqState := .drain, outs := s.outs ++ [.drainReq] })

/-- `SEQ.DRAIN` waits while the drain is unanswered; once answered it ends the step, after `E_DRAIN` when the drain failed
(43_command_sequencer.md R183, R184). -/
def Obligations.DrainAnswerEndsStep : Prop :=
  ∀ s : State, s.cfgFault = false → s.seqState = .drain →
    (s.drainDone = false → exec .seqDrain s = .next s) ∧
    (s.drainDone = true → s.drainOk = true → exec .seqDrain s = exec .seqEndStep s) ∧
    (s.drainDone = true → s.drainOk = false →
      exec .seqDrain s = exec .seqEndStep { s with errDrain := true, outs := s.outs ++ [.log 2] })

/-- `SEQ.ENDSTEP` passes on to the next character and advances from there (43_command_sequencer.md R184). -/
def Obligations.EndOfStepAdvances : Prop :=
  ∀ s : State, s.cfgFault = false → s.seqState = .drain → s.drainDone = true → s.idx.toNat ≤ 4 →
    ∃ t, exec .seqEndStep s = .next t ∧ exec .seqAdvance { s with idx := BitVec.ofNat 3 (s.idx.toNat + 1) } = .next t

/-- `DrainDone(ok)` is latched in `DRAIN` and ignored in every other state and under `CFG_FAULT` (10_state.md R35). -/
def Obligations.DrainAnswerIsLatchedOnlyInDrain : Prop :=
  ∀ (s : State) (ok : Bool) (rest : List Input), s.inputs = .edge { drainDone := some ok } :: rest →
    (s.cfgFault = false → s.seqState = .drain →
      step s = .next { s with inputs := rest, txFail := false, drainDone := true, drainOk := ok }) ∧
    (s.cfgFault = true ∨ s.seqState ≠ .drain → step s = .next { s with inputs := rest, txFail := false })

/-- From the start of a settle delay, 750 ticks bring exactly the four writes of the step, at ticks 500, 550, 600 and 650 after it,
each with `E_WRITE` logged when the PHY refuses it, and then the drain request, whatever the PHY answers
(43_command_sequencer.md R178 to R183). `fails[n]` is the PHY's answer at tick `n + 1`. -/
def Obligations.RouteStepTimeline : Prop :=
  ∀ (s : State) (fails : Vector Bool 750) (rest : List Input) (c d : Byte), s.cfgFault = false → s.seqState = .settle → s.timer = 0 →
    s.curChars[s.idx.toNat]? = some c → parseDigit c = some d → s.inputs = fails.toList.map tickInput ++ rest →
    ∃ (t : State) (v : Byte), after 750 s = some t ∧ v.toNat = s.idx.toNat * 4 + (d.toNat - 1) ∧
      t.outs = s.outs ++ writeOutputs v fails[499] ++ writeOutputs (~~~v) fails[549] ++ writeOutputs 0xD5 fails[599] ++
        writeOutputs 0x7B fails[649] ++ [.drainReq] ∧
      t.seqState = .drain ∧ t.drainDone = false ∧ t.inputs = rest ∧ t.idx = s.idx ∧ t.q = s.q ∧ t.curChars = s.curChars ∧
      t.errWrite = (s.errWrite || fails[499] || fails[549] || fails[599] || fails[649])

/-- A drain that is never answered holds the sequencer in `DRAIN`: any number of ticks, whatever the level of `tx_fail`, changes
nothing, and no event but `DrainDone` and `Reset` moves the sequencer, writes a byte or takes a request from the queue, which only
grows (70_reset_and_hazards.md R271, 43_command_sequencer.md R183). -/
def Obligations.UnansweredDrainHoldsSequencer : Prop :=
  (∀ (fails : List Bool) (s : State) (rest : List Input), s.seqState = .drain → s.drainDone = false →
    s.inputs = fails.map tickInput ++ rest →
    ∃ t, after fails.length s = some t ∧ t = { s with inputs := rest, txFail := t.txFail }) ∧
  (∀ (s : State) (e left : Edge) (rest : List Input) (ev : Event), s.seqState = .drain → s.drainDone = false →
    s.inputs = .edge e :: rest → nextEvent e = some (ev, left) → (∀ st, ev ≠ .reset st) → (∀ ok, ev ≠ .drainDone ok) →
    ∃ t, step s = .next t ∧ t.inputs = putBack left rest ∧ t.seqState = .drain ∧ t.drainDone = false ∧ t.idx = s.idx ∧
      t.timer = s.timer ∧ t.curLen = s.curLen ∧ t.curChars = s.curChars ∧ t.wire = s.wire ∧ txBytes t.outs = txBytes s.outs ∧
      ∃ new, t.q = s.q ++ new)

/-- A run in whose environment time goes on goes wrong by a hanging drain when, and only when, after some clock edge the sequencer is in
`DRAIN` with the drain unanswered and from there on neither a drain answer nor a reset comes (00_scope.md R11, 70_reset_and_hazards.md
R271). The premise of the second clause is part of the invariant (`faultOk`). What "for ever" is in the model: log 25. -/
def Obligations.HangingDrainGoesWrong : Prop :=
  ∀ (env : Nat → Edge) (s : State), timeGoesOn env →
    (∀ n t, afterEdges env n s = some t → t.seqState = .drain → t.drainDone = false →
      (∀ m ≥ n, (env m).drainDone = none ∧ (env m).reset = none) → heldInDrain env s ∧ goneWrong env s) ∧
    ((s.cfgFault = true → s.seqState = .idle) → heldInDrain env s →
      ∃ n t, afterEdges env n s = some t ∧ t.seqState = .drain ∧ t.drainDone = false ∧
        ∀ m ≥ n, (env m).drainDone = none ∧ (env m).reset = none)

/-! ## Reset, CFG_FAULT and errors -/

/-- `RESET` puts every register the spec gives a value at that value and leaves the rest unspecified, `CUR_LEN` within 0..4. With a
known label the control lines open the link and nothing is logged; with an unknown one they are 0, `CFG_FAULT` is set and code 4 is
logged once (70_reset_and_hazards.md R260). The model's choices in it: the free values stay within the range of `CUR_LEN` and their
counter advances (log 8), `QUEUE_DEPTH` is kept (log 5), and so is the record of the outputs (log 2). -/
def Obligations.ResetSetsEveryRegister : Prop :=
  ∀ (s : State) (st : Straps), ∃ t, exec (.reset st) s = .next t ∧
    t = { t with
      cfgLabel := st.label, cfgIn4 := st.in4, cfgOut4 := st.out4, rts := false
      rxSynced := false, rxCnt := 0, stValid := false, stMem := #v[0, 0, 0, 0], stRoute := #v[0, 0, 0, 0]
      stIn := #v[false, false, false, false], stOut := #v[false, false, false, false], stPower := false
      q := [], seqState := .idle, idx := 0, timer := 0, drainDone := false, drainOk := false
      errWrite := false, errDrain := false, errQfull := false
      qDepth := s.qDepth, inputs := s.inputs, txFail := s.txFail, freeCtr := s.freeCtr + 1 } ∧
    t.curLen.toNat ≤ 4 ∧
    (st.label = 0b10 ∨ st.label = 0b01 → t.cfgFault = false ∧ t.dtr = true ∧ t.dsr = true ∧ t.outs = s.outs) ∧
    (st.label = 0b00 ∨ st.label = 0b11 → t.cfgFault = true ∧ t.dtr = false ∧ t.dsr = false ∧ t.outs = s.outs ++ [.log 4])

/-- While `CFG_FAULT = 1`, every received byte, tick and drain answer is ignored, a `SwitchCmd` is refused without a flag or a log
event, and a `GetStatus` answers `EMPTY` (60_exceptions.md R232). -/
def Obligations.UnusableInstanceIgnoresEvents : Prop :=
  ∀ (s : State) (rest : List Input) (fails : Bool), s.cfgFault = true →
    (∀ b, s.inputs = .edge { rx := some b, txFail := fails } :: rest → step s = .next { s with inputs := rest, txFail := fails }) ∧
    (s.inputs = tickInput fails :: rest → step s = .next { s with inputs := rest, txFail := fails }) ∧
    (∀ ok, s.inputs = .edge { drainDone := some ok, txFail := fails } :: rest →
      step s = .next { s with inputs := rest, txFail := fails }) ∧
    (∀ r, s.inputs = .edge { switchCmd := some r, txFail := fails } :: rest →
      step s = .next { s with inputs := rest, txFail := fails, outs := s.outs ++ [.reqAccept false] }) ∧
    (s.inputs = .edge { getStatus := true, txFail := fails } :: rest →
      step s = .next { s with inputs := rest, txFail := fails, outs := s.outs ++ [.status none] })

/-- `State.reset` has the reset values of 10_state.md R40 for a known label. Its straps and its unbounded queue are the model's
choice (log 5, log 6). -/
def Obligations.ResetStateValues : Prop :=
  State.reset.cfgFault = false ∧ (State.reset.rts, State.reset.dtr, State.reset.dsr) = (false, true, true) ∧
  State.reset.rxSynced = false ∧ State.reset.rxCnt = 0 ∧ State.reset.stValid = false ∧
  State.reset.stMem = #v[0, 0, 0, 0] ∧ State.reset.stRoute = #v[0, 0, 0, 0] ∧
  State.reset.stIn = #v[false, false, false, false] ∧ State.reset.stOut = #v[false, false, false, false] ∧
  State.reset.stPower = false ∧ State.reset.q = [] ∧ State.reset.seqState = .idle ∧ State.reset.idx = 0 ∧ State.reset.timer = 0 ∧
  State.reset.drainDone = false ∧ State.reset.drainOk = false ∧
  State.reset.errWrite = false ∧ State.reset.errDrain = false ∧ State.reset.errQfull = false

/-- No error changes later behaviour: with other values in the three sticky flags every instruction gives the same next state but
for those flags (60_exceptions.md R240). -/
def Obligations.ErrorFlagsNeverChangeBehaviour : Prop :=
  ∀ (i : Instr) (s t : State) (w d q : Bool), exec i s = .next t →
    ∃ w' d' q', exec i (withErrorFlags w d q s) = .next (withErrorFlags w' d' q' t)

/-- Nothing but `RESET` clears a sticky error flag or `ST_VALID`: once a status is installed the record is never empty again
(10_state.md R38, R31; 41_status_interpreter.md R140). -/
def Obligations.OnlyResetClearsStickyBits : Prop :=
  ∀ (i : Instr) (s t : State), (∀ st, i ≠ .reset st) → exec i s = .next t →
    (s.errWrite = true → t.errWrite = true) ∧ (s.errDrain = true → t.errDrain = true) ∧ (s.errQfull = true → t.errQfull = true) ∧
    (s.stValid = true → t.stValid = true)

/-! ## The whole machine -/

/-- No instruction but `RESET` writes the configuration, `CFG_FAULT` or the control lines (10_state.md R21, R23, R24, R25). None writes
`QUEUE_DEPTH`, a parameter of the block (00_scope.md R5): that it is a field of State no event writes is the model's choice (log 5). -/
def Obligations.OnlyResetWritesConfiguration : Prop :=
  ∀ (i : Instr) (s t : State), exec i s = .next t → t.qDepth = s.qDepth ∧
    ((∀ st, i ≠ .reset st) →
      t.cfgLabel = s.cfgLabel ∧ t.cfgIn4 = s.cfgIn4 ∧ t.cfgOut4 = s.cfgOut4 ∧ t.cfgFault = s.cfgFault ∧
      t.rts = s.rts ∧ t.dtr = s.dtr ∧ t.dsr = s.dsr)

/-- An event on a clock edge other than a received byte and `Reset` leaves the receive path and the status as they are
(10_state.md R41, R44; 20_memory.md R75). -/
def Obligations.OnlyReceivedBytesWriteStatus : Prop :=
  ∀ (s t : State) (e left : Edge) (rest : List Input) (ev : Event), s.inputs = .edge e :: rest → nextEvent e = some (ev, left) →
    (∀ st, ev ≠ .reset st) → (∀ b, ev ≠ .rxByte b) → step s = .next t →
    t.rxSynced = s.rxSynced ∧ t.rxCnt = s.rxCnt ∧ t.rxBuf = s.rxBuf ∧ t.stValid = s.stValid ∧ t.stMem = s.stMem ∧
    t.stRoute = s.stRoute ∧ t.stIn = s.stIn ∧ t.stOut = s.stOut ∧ t.stPower = s.stPower

/-- A received byte leaves the queue, the sequencer, the error flags and the output ports as they are
(10_state.md R41, 43_command_sequencer.md R188). -/
def Obligations.ReceivedBytesLeaveSequencer : Prop :=
  ∀ (s t : State) (e left : Edge) (rest : List Input) (b : Byte), s.inputs = .edge e :: rest →
    nextEvent e = some (.rxByte b, left) → step s = .next t →
    t = { s with
      inputs := putBack left rest, txFail := e.txFail, rxSynced := t.rxSynced, rxCnt := t.rxCnt, rxBuf := t.rxBuf, stValid := t.stValid
      stMem := t.stMem, stRoute := t.stRoute, stIn := t.stIn, stOut := t.stOut, stPower := t.stPower }

/-- Within one tick at most one byte is written and at most one error logged, so at most one of `E_WRITE` and `E_DRAIN` is raised: a
tick in `DRAIN`, which may end a drain, writes none, and neither does the tick that requests the drain (60_exceptions.md R237, which
the spec derives; read in the model's record of the outputs, log 2). -/
def Obligations.AtMostOneWritePerTick : Prop :=
  ∀ (s t : State) (rest : List Input) (fails : Bool), s.inputs = tickInput fails :: rest → step s = .next t →
    ∃ new, t.outs = s.outs ++ new ∧ (txBytes new).length ≤ 1 ∧ (logCodes new).length ≤ 1 ∧
      (Output.log 1 ∈ new → Output.log 2 ∉ new) ∧ (s.seqState = .drain → txBytes new = [] ∧ Output.log 1 ∉ new) ∧
      (Output.log 2 ∈ new → s.seqState = .drain) ∧ (Output.drainReq ∈ new → txBytes new = [])

/-- The invariant of the hardware holds in `State.reset`, whose straps (log 6), unbounded queue (log 5) and zeros in the registers
without a reset value (log 7) are the model's choices. -/
def Obligations.InvariantHoldsAtReset : Prop := Inv State.reset

/-- Every reset, with any straps and from any state, establishes the invariant, as long as only clock edges are still to come and
`QUEUE_DEPTH` is positive or unbounded (70_reset_and_hazards.md R260, 00_scope.md R5). That the free value of `CUR_LEN` after a reset
stays within its range 0..4 (10_state.md R29) is the model's choice (log 8). -/
def Obligations.EveryResetEstablishesInvariant : Prop :=
  ∀ (s : State) (st : Straps), edgesOnly s → (∀ d ∈ s.qDepth, 0 < d) → ∃ t, exec (.reset st) s = .next t ∧ Inv t

/-- From every state with the invariant, whatever clock edges are still to come, a step answers a next state with the invariant:
the hardware never stops, and its registers keep their ranges and relations. -/
def Obligations.EveryStepKeepsInvariant : Prop :=
  ∀ s : State, Inv s → ∃ t, step s = .next t ∧ Inv t

/-- As long as no reset comes, the TX stream is at every moment a sequence of whole four-byte steps followed by the bytes already
written of the current one: no two steps ever interleave and no byte is written twice or left out (20_memory.md R74). -/
def Obligations.TxStreamStaysWhole : Prop :=
  ∀ s t : State, Inv s → (∀ x ∈ s.inputs, x.noReset = true) → txStreamWhole s → step s = .next t → txStreamWhole t
end

