-- ==== Sys2Proof/Laws/Decode.lean ====
section
/-!
SUPPORT. What the decoder gives for each class of byte and of wire step.
-/
namespace Sys2Proof

/-! ## The decoder, stream by stream -/

theorem decode_rxb (label : BitVec 2) (synced : Bool) (b : Byte) (rest : List Byte) :
    decode (.rxb label synced) (b :: rest) = (decodeRxb label synced b).map (·, rest) := rfl

theorem decode_rqc (c : Byte) (rest : List Byte) : decode .rqc (c :: rest) = .ok (decodeRqc c, rest) := rfl

theorem decode_ws4 (cmd comp t0 t1 : Byte) (rest : List Byte) :
    decode .ws4 (cmd :: comp :: t0 :: t1 :: rest) =
      if t0 = Config.trailer0 ∧ t1 = Config.trailer1 then .ok (decodeWs4 cmd comp, rest) else .error .badTrailer := rfl

/-! ## The classes of a byte -/

/-- A character that is neither a digit '1'..'9' nor 'x' is a SKIPINV (30_encoding.md R82). -/
theorem decodeRqc_unparseable {c : Byte} (h : isUnparseable c = true) : decodeRqc c = .skipinv c := by
  simp only [isUnparseable, Bool.and_eq_true, Bool.not_eq_true', Bool.and_eq_false_iff, decide_eq_false_iff_not, bne_iff_ne] at h
  unfold decodeRqc
  rw [if_neg h.2]
  have hne : ∀ d : Byte, 0x31 ≤ d.toNat → d.toNat ≤ 0x39 → c ≠ d := fun d h1 h2 e => by
    subst e
    rcases h.1 with h1' | h1'
    · exact h1' h1
    · exact h1' h2
  rw [if_neg (hne _ (by decide) (by decide)), if_neg (hne _ (by decide) (by decide)), if_neg (hne _ (by decide) (by decide)),
    if_neg (hne _ (by decide) (by decide)), if_neg (hne _ (by decide) (by decide)), if_neg (hne _ (by decide) (by decide)),
    if_neg (hne _ (by decide) (by decide)), if_neg (hne _ (by decide) (by decide)), if_neg (hne _ (by decide) (by decide))]

/-- A wire step that no row of 30_encoding.md R85 claims is the general one. -/
theorem decodeWs4_general {cmd comp : Byte} (h : comp = ~~~cmd → 0x10 ≤ cmd.toNat) : decodeWs4 cmd comp = .ws4General cmd comp := by
  unfold decodeWs4
  by_cases hk : comp = ~~~cmd
  · rw [if_pos hk]
    have hc := h hk
    have hne : ∀ d : Byte, d.toNat < 0x10 → cmd ≠ d := fun d hd e => by subst e; omega
    rw [if_neg (hne _ (by decide)), if_neg (hne _ (by decide)), if_neg (hne _ (by decide)), if_neg (hne _ (by decide)),
      if_neg (hne _ (by decide)), if_neg (hne _ (by decide)), if_neg (hne _ (by decide)), if_neg (hne _ (by decide)),
      if_neg (hne _ (by decide)), if_neg (hne _ (by decide)), if_neg (hne _ (by decide)), if_neg (hne _ (by decide)),
      if_neg (hne _ (by decide)), if_neg (hne _ (by decide)), if_neg (hne _ (by decide)), if_neg (hne _ (by decide))]
  · rw [if_neg hk]

/-- A request character is written back as it was read. -/
theorem encode_decodeRqc : ∀ c : Byte, encode (decodeRqc c) = some [c] ∧ (decodeRqc c).format = .rqc := by decide

/-- A wire step is written back as it was read. -/
theorem encode_decodeWs4 (cmd comp : Byte) :
    encode (decodeWs4 cmd comp) = some (ws4Bytes cmd comp) ∧ (decodeWs4 cmd comp).format = .ws4 := by
  by_cases h : comp = ~~~cmd
  · subst h
    revert cmd
    decide
  · rw [decodeWs4_general (fun e => absurd e h)]
    exact ⟨rfl, rfl⟩

/-- What the decoder gives for a received byte under a known label (30_encoding.md R88). -/
theorem decodeRxb_data {label : BitVec 2} {m b : Byte} (synced : Bool) (h : marker label = some m) (hb : b ≠ m) :
    decodeRxb label synced b = .ok (if synced then .rxDataSynced b else .rxDataUnsynced b) := by
  cases synced <;> simp [decodeRxb, h, hb]

/-- Thirteen bytes are the list of their frame, so a frame read from them is written back as them. -/
theorem frame_toList (f : Vector Byte 13) :
    f.toList = [f[0], f[1], f[2], f[3], f[4], f[5], f[6], f[7], f[8], f[9], f[10], f[11], f[12]] := by
  apply List.ext_getElem (by simp)
  intro k h1 h2
  have hk : k < 13 := by simpa using h1
  interval_cases k <;> simp

theorem decode_sf13 (f : Vector Byte 13) (rest : List Byte) : decode .sf13 (f.toList ++ rest) = .ok (.sf13 f, rest) := by
  rw [frame_toList]
  change Except.ok (Instr.sf13 #v[f[0], f[1], f[2], f[3], f[4], f[5], f[6], f[7], f[8], f[9], f[10], f[11], f[12]], rest) = _
  congr 3
  ext k hk
  interval_cases k <;> rfl

end Sys2Proof
end

