-- ==== Sys2Proof/Laws/State.lean ====
section
/-!
SUPPORT. One lemma per field per update, for the operations that are one record update: what each field reads afterwards.
-/
namespace Sys2Proof.Machine

variable (s : State)

/-! ## `emit` -/

@[simp] theorem emit_cfgLabel (o : Output) : (emit o s).cfgLabel = s.cfgLabel := rfl
@[simp] theorem emit_cfgIn4 (o : Output) : (emit o s).cfgIn4 = s.cfgIn4 := rfl
@[simp] theorem emit_cfgOut4 (o : Output) : (emit o s).cfgOut4 = s.cfgOut4 := rfl
@[simp] theorem emit_cfgFault (o : Output) : (emit o s).cfgFault = s.cfgFault := rfl
@[simp] theorem emit_rts (o : Output) : (emit o s).rts = s.rts := rfl
@[simp] theorem emit_dtr (o : Output) : (emit o s).dtr = s.dtr := rfl
@[simp] theorem emit_dsr (o : Output) : (emit o s).dsr = s.dsr := rfl
@[simp] theorem emit_rxSynced (o : Output) : (emit o s).rxSynced = s.rxSynced := rfl
@[simp] theorem emit_rxCnt (o : Output) : (emit o s).rxCnt = s.rxCnt := rfl
@[simp] theorem emit_rxBuf (o : Output) : (emit o s).rxBuf = s.rxBuf := rfl
@[simp] theorem emit_stValid (o : Output) : (emit o s).stValid = s.stValid := rfl
@[simp] theorem emit_stMem (o : Output) : (emit o s).stMem = s.stMem := rfl
@[simp] theorem emit_stRoute (o : Output) : (emit o s).stRoute = s.stRoute := rfl
@[simp] theorem emit_stIn (o : Output) : (emit o s).stIn = s.stIn := rfl
@[simp] theorem emit_stOut (o : Output) : (emit o s).stOut = s.stOut := rfl
@[simp] theorem emit_stPower (o : Output) : (emit o s).stPower = s.stPower := rfl
@[simp] theorem emit_q (o : Output) : (emit o s).q = s.q := rfl
@[simp] theorem emit_seqState (o : Output) : (emit o s).seqState = s.seqState := rfl
@[simp] theorem emit_idx (o : Output) : (emit o s).idx = s.idx := rfl
@[simp] theorem emit_timer (o : Output) : (emit o s).timer = s.timer := rfl
@[simp] theorem emit_curLen (o : Output) : (emit o s).curLen = s.curLen := rfl
@[simp] theorem emit_curChars (o : Output) : (emit o s).curChars = s.curChars := rfl
@[simp] theorem emit_wire (o : Output) : (emit o s).wire = s.wire := rfl
@[simp] theorem emit_drainDone (o : Output) : (emit o s).drainDone = s.drainDone := rfl
@[simp] theorem emit_drainOk (o : Output) : (emit o s).drainOk = s.drainOk := rfl
@[simp] theorem emit_errWrite (o : Output) : (emit o s).errWrite = s.errWrite := rfl
@[simp] theorem emit_errDrain (o : Output) : (emit o s).errDrain = s.errDrain := rfl
@[simp] theorem emit_errQfull (o : Output) : (emit o s).errQfull = s.errQfull := rfl
@[simp] theorem emit_qDepth (o : Output) : (emit o s).qDepth = s.qDepth := rfl
@[simp] theorem emit_inputs (o : Output) : (emit o s).inputs = s.inputs := rfl
@[simp] theorem emit_txFail (o : Output) : (emit o s).txFail = s.txFail := rfl
@[simp] theorem emit_outs (o : Output) : (emit o s).outs = s.outs ++ [o] := rfl
@[simp] theorem emit_freeCtr (o : Output) : (emit o s).freeCtr = s.freeCtr := rfl

/-! ## `drainRequest` -/

@[simp] theorem drainRequest_cfgLabel : (drainRequest s).cfgLabel = s.cfgLabel := rfl
@[simp] theorem drainRequest_cfgIn4 : (drainRequest s).cfgIn4 = s.cfgIn4 := rfl
@[simp] theorem drainRequest_cfgOut4 : (drainRequest s).cfgOut4 = s.cfgOut4 := rfl
@[simp] theorem drainRequest_cfgFault : (drainRequest s).cfgFault = s.cfgFault := rfl
@[simp] theorem drainRequest_rts : (drainRequest s).rts = s.rts := rfl
@[simp] theorem drainRequest_dtr : (drainRequest s).dtr = s.dtr := rfl
@[simp] theorem drainRequest_dsr : (drainRequest s).dsr = s.dsr := rfl
@[simp] theorem drainRequest_rxSynced : (drainRequest s).rxSynced = s.rxSynced := rfl
@[simp] theorem drainRequest_rxCnt : (drainRequest s).rxCnt = s.rxCnt := rfl
@[simp] theorem drainRequest_rxBuf : (drainRequest s).rxBuf = s.rxBuf := rfl
@[simp] theorem drainRequest_stValid : (drainRequest s).stValid = s.stValid := rfl
@[simp] theorem drainRequest_stMem : (drainRequest s).stMem = s.stMem := rfl
@[simp] theorem drainRequest_stRoute : (drainRequest s).stRoute = s.stRoute := rfl
@[simp] theorem drainRequest_stIn : (drainRequest s).stIn = s.stIn := rfl
@[simp] theorem drainRequest_stOut : (drainRequest s).stOut = s.stOut := rfl
@[simp] theorem drainRequest_stPower : (drainRequest s).stPower = s.stPower := rfl
@[simp] theorem drainRequest_q : (drainRequest s).q = s.q := rfl
@[simp] theorem drainRequest_seqState : (drainRequest s).seqState = .drain := rfl
@[simp] theorem drainRequest_idx : (drainRequest s).idx = s.idx := rfl
@[simp] theorem drainRequest_timer : (drainRequest s).timer = s.timer := rfl
@[simp] theorem drainRequest_curLen : (drainRequest s).curLen = s.curLen := rfl
@[simp] theorem drainRequest_curChars : (drainRequest s).curChars = s.curChars := rfl
@[simp] theorem drainRequest_wire : (drainRequest s).wire = s.wire := rfl
@[simp] theorem drainRequest_drainDone : (drainRequest s).drainDone = false := rfl
@[simp] theorem drainRequest_drainOk : (drainRequest s).drainOk = s.drainOk := rfl
@[simp] theorem drainRequest_errWrite : (drainRequest s).errWrite = s.errWrite := rfl
@[simp] theorem drainRequest_errDrain : (drainRequest s).errDrain = s.errDrain := rfl
@[simp] theorem drainRequest_errQfull : (drainRequest s).errQfull = s.errQfull := rfl
@[simp] theorem drainRequest_qDepth : (drainRequest s).qDepth = s.qDepth := rfl
@[simp] theorem drainRequest_inputs : (drainRequest s).inputs = s.inputs := rfl
@[simp] theorem drainRequest_txFail : (drainRequest s).txFail = s.txFail := rfl
@[simp] theorem drainRequest_outs : (drainRequest s).outs = s.outs ++ [.drainReq] := rfl
@[simp] theorem drainRequest_freeCtr : (drainRequest s).freeCtr = s.freeCtr := rfl

/-! ## `installStatus` -/

@[simp] theorem installStatus_cfgLabel (st : DeviceStatus) : (installStatus st s).cfgLabel = s.cfgLabel := rfl
@[simp] theorem installStatus_cfgIn4 (st : DeviceStatus) : (installStatus st s).cfgIn4 = s.cfgIn4 := rfl
@[simp] theorem installStatus_cfgOut4 (st : DeviceStatus) : (installStatus st s).cfgOut4 = s.cfgOut4 := rfl
@[simp] theorem installStatus_cfgFault (st : DeviceStatus) : (installStatus st s).cfgFault = s.cfgFault := rfl
@[simp] theorem installStatus_rts (st : DeviceStatus) : (installStatus st s).rts = s.rts := rfl
@[simp] theorem installStatus_dtr (st : DeviceStatus) : (installStatus st s).dtr = s.dtr := rfl
@[simp] theorem installStatus_dsr (st : DeviceStatus) : (installStatus st s).dsr = s.dsr := rfl
@[simp] theorem installStatus_rxSynced (st : DeviceStatus) : (installStatus st s).rxSynced = s.rxSynced := rfl
@[simp] theorem installStatus_rxCnt (st : DeviceStatus) : (installStatus st s).rxCnt = s.rxCnt := rfl
@[simp] theorem installStatus_rxBuf (st : DeviceStatus) : (installStatus st s).rxBuf = s.rxBuf := rfl
@[simp] theorem installStatus_stValid (st : DeviceStatus) : (installStatus st s).stValid = true := rfl
@[simp] theorem installStatus_stMem (st : DeviceStatus) : (installStatus st s).stMem = st.mem := rfl
@[simp] theorem installStatus_stRoute (st : DeviceStatus) : (installStatus st s).stRoute = st.route := rfl
@[simp] theorem installStatus_stIn (st : DeviceStatus) : (installStatus st s).stIn = st.inp := rfl
@[simp] theorem installStatus_stOut (st : DeviceStatus) : (installStatus st s).stOut = st.out := rfl
@[simp] theorem installStatus_stPower (st : DeviceStatus) : (installStatus st s).stPower = st.power := rfl
@[simp] theorem installStatus_q (st : DeviceStatus) : (installStatus st s).q = s.q := rfl
@[simp] theorem installStatus_seqState (st : DeviceStatus) : (installStatus st s).seqState = s.seqState := rfl
@[simp] theorem installStatus_idx (st : DeviceStatus) : (installStatus st s).idx = s.idx := rfl
@[simp] theorem installStatus_timer (st : DeviceStatus) : (installStatus st s).timer = s.timer := rfl
@[simp] theorem installStatus_curLen (st : DeviceStatus) : (installStatus st s).curLen = s.curLen := rfl
@[simp] theorem installStatus_curChars (st : DeviceStatus) : (installStatus st s).curChars = s.curChars := rfl
@[simp] theorem installStatus_wire (st : DeviceStatus) : (installStatus st s).wire = s.wire := rfl
@[simp] theorem installStatus_drainDone (st : DeviceStatus) : (installStatus st s).drainDone = s.drainDone := rfl
@[simp] theorem installStatus_drainOk (st : DeviceStatus) : (installStatus st s).drainOk = s.drainOk := rfl
@[simp] theorem installStatus_errWrite (st : DeviceStatus) : (installStatus st s).errWrite = s.errWrite := rfl
@[simp] theorem installStatus_errDrain (st : DeviceStatus) : (installStatus st s).errDrain = s.errDrain := rfl
@[simp] theorem installStatus_errQfull (st : DeviceStatus) : (installStatus st s).errQfull = s.errQfull := rfl
@[simp] theorem installStatus_qDepth (st : DeviceStatus) : (installStatus st s).qDepth = s.qDepth := rfl
@[simp] theorem installStatus_inputs (st : DeviceStatus) : (installStatus st s).inputs = s.inputs := rfl
@[simp] theorem installStatus_txFail (st : DeviceStatus) : (installStatus st s).txFail = s.txFail := rfl
@[simp] theorem installStatus_outs (st : DeviceStatus) : (installStatus st s).outs = s.outs := rfl
@[simp] theorem installStatus_freeCtr (st : DeviceStatus) : (installStatus st s).freeCtr = s.freeCtr := rfl

/-! ## `qPush` -/

@[simp] theorem qPush_cfgLabel (r : Request) : (qPush r s).cfgLabel = s.cfgLabel := rfl
@[simp] theorem qPush_cfgIn4 (r : Request) : (qPush r s).cfgIn4 = s.cfgIn4 := rfl
@[simp] theorem qPush_cfgOut4 (r : Request) : (qPush r s).cfgOut4 = s.cfgOut4 := rfl
@[simp] theorem qPush_cfgFault (r : Request) : (qPush r s).cfgFault = s.cfgFault := rfl
@[simp] theorem qPush_rts (r : Request) : (qPush r s).rts = s.rts := rfl
@[simp] theorem qPush_dtr (r : Request) : (qPush r s).dtr = s.dtr := rfl
@[simp] theorem qPush_dsr (r : Request) : (qPush r s).dsr = s.dsr := rfl
@[simp] theorem qPush_rxSynced (r : Request) : (qPush r s).rxSynced = s.rxSynced := rfl
@[simp] theorem qPush_rxCnt (r : Request) : (qPush r s).rxCnt = s.rxCnt := rfl
@[simp] theorem qPush_rxBuf (r : Request) : (qPush r s).rxBuf = s.rxBuf := rfl
@[simp] theorem qPush_stValid (r : Request) : (qPush r s).stValid = s.stValid := rfl
@[simp] theorem qPush_stMem (r : Request) : (qPush r s).stMem = s.stMem := rfl
@[simp] theorem qPush_stRoute (r : Request) : (qPush r s).stRoute = s.stRoute := rfl
@[simp] theorem qPush_stIn (r : Request) : (qPush r s).stIn = s.stIn := rfl
@[simp] theorem qPush_stOut (r : Request) : (qPush r s).stOut = s.stOut := rfl
@[simp] theorem qPush_stPower (r : Request) : (qPush r s).stPower = s.stPower := rfl
@[simp] theorem qPush_q (r : Request) : (qPush r s).q = s.q ++ [r] := rfl
@[simp] theorem qPush_seqState (r : Request) : (qPush r s).seqState = s.seqState := rfl
@[simp] theorem qPush_idx (r : Request) : (qPush r s).idx = s.idx := rfl
@[simp] theorem qPush_timer (r : Request) : (qPush r s).timer = s.timer := rfl
@[simp] theorem qPush_curLen (r : Request) : (qPush r s).curLen = s.curLen := rfl
@[simp] theorem qPush_curChars (r : Request) : (qPush r s).curChars = s.curChars := rfl
@[simp] theorem qPush_wire (r : Request) : (qPush r s).wire = s.wire := rfl
@[simp] theorem qPush_drainDone (r : Request) : (qPush r s).drainDone = s.drainDone := rfl
@[simp] theorem qPush_drainOk (r : Request) : (qPush r s).drainOk = s.drainOk := rfl
@[simp] theorem qPush_errWrite (r : Request) : (qPush r s).errWrite = s.errWrite := rfl
@[simp] theorem qPush_errDrain (r : Request) : (qPush r s).errDrain = s.errDrain := rfl
@[simp] theorem qPush_errQfull (r : Request) : (qPush r s).errQfull = s.errQfull := rfl
@[simp] theorem qPush_qDepth (r : Request) : (qPush r s).qDepth = s.qDepth := rfl
@[simp] theorem qPush_inputs (r : Request) : (qPush r s).inputs = s.inputs := rfl
@[simp] theorem qPush_txFail (r : Request) : (qPush r s).txFail = s.txFail := rfl
@[simp] theorem qPush_outs (r : Request) : (qPush r s).outs = s.outs := rfl
@[simp] theorem qPush_freeCtr (r : Request) : (qPush r s).freeCtr = s.freeCtr := rfl

/-! ## `loadRequest` -/

@[simp] theorem loadRequest_cfgLabel (r : Request) (rest : List Request) : (loadRequest r rest s).cfgLabel = s.cfgLabel := rfl
@[simp] theorem loadRequest_cfgIn4 (r : Request) (rest : List Request) : (loadRequest r rest s).cfgIn4 = s.cfgIn4 := rfl
@[simp] theorem loadRequest_cfgOut4 (r : Request) (rest : List Request) : (loadRequest r rest s).cfgOut4 = s.cfgOut4 := rfl
@[simp] theorem loadRequest_cfgFault (r : Request) (rest : List Request) : (loadRequest r rest s).cfgFault = s.cfgFault := rfl
@[simp] theorem loadRequest_rts (r : Request) (rest : List Request) : (loadRequest r rest s).rts = s.rts := rfl
@[simp] theorem loadRequest_dtr (r : Request) (rest : List Request) : (loadRequest r rest s).dtr = s.dtr := rfl
@[simp] theorem loadRequest_dsr (r : Request) (rest : List Request) : (loadRequest r rest s).dsr = s.dsr := rfl
@[simp] theorem loadRequest_rxSynced (r : Request) (rest : List Request) : (loadRequest r rest s).rxSynced = s.rxSynced := rfl
@[simp] theorem loadRequest_rxCnt (r : Request) (rest : List Request) : (loadRequest r rest s).rxCnt = s.rxCnt := rfl
@[simp] theorem loadRequest_rxBuf (r : Request) (rest : List Request) : (loadRequest r rest s).rxBuf = s.rxBuf := rfl
@[simp] theorem loadRequest_stValid (r : Request) (rest : List Request) : (loadRequest r rest s).stValid = s.stValid := rfl
@[simp] theorem loadRequest_stMem (r : Request) (rest : List Request) : (loadRequest r rest s).stMem = s.stMem := rfl
@[simp] theorem loadRequest_stRoute (r : Request) (rest : List Request) : (loadRequest r rest s).stRoute = s.stRoute := rfl
@[simp] theorem loadRequest_stIn (r : Request) (rest : List Request) : (loadRequest r rest s).stIn = s.stIn := rfl
@[simp] theorem loadRequest_stOut (r : Request) (rest : List Request) : (loadRequest r rest s).stOut = s.stOut := rfl
@[simp] theorem loadRequest_stPower (r : Request) (rest : List Request) : (loadRequest r rest s).stPower = s.stPower := rfl
@[simp] theorem loadRequest_q (r : Request) (rest : List Request) : (loadRequest r rest s).q = rest := rfl
@[simp] theorem loadRequest_seqState (r : Request) (rest : List Request) : (loadRequest r rest s).seqState = s.seqState := rfl
@[simp] theorem loadRequest_idx (r : Request) (rest : List Request) : (loadRequest r rest s).idx = 0 := rfl
@[simp] theorem loadRequest_timer (r : Request) (rest : List Request) : (loadRequest r rest s).timer = s.timer := rfl
@[simp] theorem loadRequest_curLen (r : Request) (rest : List Request) : (loadRequest r rest s).curLen = r.len := rfl
@[simp] theorem loadRequest_curChars (r : Request) (rest : List Request) : (loadRequest r rest s).curChars = r.chars := rfl
@[simp] theorem loadRequest_wire (r : Request) (rest : List Request) : (loadRequest r rest s).wire = s.wire := rfl
@[simp] theorem loadRequest_drainDone (r : Request) (rest : List Request) : (loadRequest r rest s).drainDone = s.drainDone := rfl
@[simp] theorem loadRequest_drainOk (r : Request) (rest : List Request) : (loadRequest r rest s).drainOk = s.drainOk := rfl
@[simp] theorem loadRequest_errWrite (r : Request) (rest : List Request) : (loadRequest r rest s).errWrite = s.errWrite := rfl
@[simp] theorem loadRequest_errDrain (r : Request) (rest : List Request) : (loadRequest r rest s).errDrain = s.errDrain := rfl
@[simp] theorem loadRequest_errQfull (r : Request) (rest : List Request) : (loadRequest r rest s).errQfull = s.errQfull := rfl
@[simp] theorem loadRequest_qDepth (r : Request) (rest : List Request) : (loadRequest r rest s).qDepth = s.qDepth := rfl
@[simp] theorem loadRequest_inputs (r : Request) (rest : List Request) : (loadRequest r rest s).inputs = s.inputs := rfl
@[simp] theorem loadRequest_txFail (r : Request) (rest : List Request) : (loadRequest r rest s).txFail = s.txFail := rfl
@[simp] theorem loadRequest_outs (r : Request) (rest : List Request) : (loadRequest r rest s).outs = s.outs := rfl
@[simp] theorem loadRequest_freeCtr (r : Request) (rest : List Request) : (loadRequest r rest s).freeCtr = s.freeCtr := rfl

/-! ## `nextChar` -/

@[simp] theorem nextChar_cfgLabel : (nextChar s).cfgLabel = s.cfgLabel := rfl
@[simp] theorem nextChar_cfgIn4 : (nextChar s).cfgIn4 = s.cfgIn4 := rfl
@[simp] theorem nextChar_cfgOut4 : (nextChar s).cfgOut4 = s.cfgOut4 := rfl
@[simp] theorem nextChar_cfgFault : (nextChar s).cfgFault = s.cfgFault := rfl
@[simp] theorem nextChar_rts : (nextChar s).rts = s.rts := rfl
@[simp] theorem nextChar_dtr : (nextChar s).dtr = s.dtr := rfl
@[simp] theorem nextChar_dsr : (nextChar s).dsr = s.dsr := rfl
@[simp] theorem nextChar_rxSynced : (nextChar s).rxSynced = s.rxSynced := rfl
@[simp] theorem nextChar_rxCnt : (nextChar s).rxCnt = s.rxCnt := rfl
@[simp] theorem nextChar_rxBuf : (nextChar s).rxBuf = s.rxBuf := rfl
@[simp] theorem nextChar_stValid : (nextChar s).stValid = s.stValid := rfl
@[simp] theorem nextChar_stMem : (nextChar s).stMem = s.stMem := rfl
@[simp] theorem nextChar_stRoute : (nextChar s).stRoute = s.stRoute := rfl
@[simp] theorem nextChar_stIn : (nextChar s).stIn = s.stIn := rfl
@[simp] theorem nextChar_stOut : (nextChar s).stOut = s.stOut := rfl
@[simp] theorem nextChar_stPower : (nextChar s).stPower = s.stPower := rfl
@[simp] theorem nextChar_q : (nextChar s).q = s.q := rfl
@[simp] theorem nextChar_seqState : (nextChar s).seqState = s.seqState := rfl
@[simp] theorem nextChar_idx : (nextChar s).idx = s.idx + 1 := rfl
@[simp] theorem nextChar_timer : (nextChar s).timer = s.timer := rfl
@[simp] theorem nextChar_curLen : (nextChar s).curLen = s.curLen := rfl
@[simp] theorem nextChar_curChars : (nextChar s).curChars = s.curChars := rfl
@[simp] theorem nextChar_wire : (nextChar s).wire = s.wire := rfl
@[simp] theorem nextChar_drainDone : (nextChar s).drainDone = s.drainDone := rfl
@[simp] theorem nextChar_drainOk : (nextChar s).drainOk = s.drainOk := rfl
@[simp] theorem nextChar_errWrite : (nextChar s).errWrite = s.errWrite := rfl
@[simp] theorem nextChar_errDrain : (nextChar s).errDrain = s.errDrain := rfl
@[simp] theorem nextChar_errQfull : (nextChar s).errQfull = s.errQfull := rfl
@[simp] theorem nextChar_qDepth : (nextChar s).qDepth = s.qDepth := rfl
@[simp] theorem nextChar_inputs : (nextChar s).inputs = s.inputs := rfl
@[simp] theorem nextChar_txFail : (nextChar s).txFail = s.txFail := rfl
@[simp] theorem nextChar_outs : (nextChar s).outs = s.outs := rfl
@[simp] theorem nextChar_freeCtr : (nextChar s).freeCtr = s.freeCtr := rfl

/-! ## `beginSettle` -/

@[simp] theorem beginSettle_cfgLabel : (beginSettle s).cfgLabel = s.cfgLabel := rfl
@[simp] theorem beginSettle_cfgIn4 : (beginSettle s).cfgIn4 = s.cfgIn4 := rfl
@[simp] theorem beginSettle_cfgOut4 : (beginSettle s).cfgOut4 = s.cfgOut4 := rfl
@[simp] theorem beginSettle_cfgFault : (beginSettle s).cfgFault = s.cfgFault := rfl
@[simp] theorem beginSettle_rts : (beginSettle s).rts = s.rts := rfl
@[simp] theorem beginSettle_dtr : (beginSettle s).dtr = s.dtr := rfl
@[simp] theorem beginSettle_dsr : (beginSettle s).dsr = s.dsr := rfl
@[simp] theorem beginSettle_rxSynced : (beginSettle s).rxSynced = s.rxSynced := rfl
@[simp] theorem beginSettle_rxCnt : (beginSettle s).rxCnt = s.rxCnt := rfl
@[simp] theorem beginSettle_rxBuf : (beginSettle s).rxBuf = s.rxBuf := rfl
@[simp] theorem beginSettle_stValid : (beginSettle s).stValid = s.stValid := rfl
@[simp] theorem beginSettle_stMem : (beginSettle s).stMem = s.stMem := rfl
@[simp] theorem beginSettle_stRoute : (beginSettle s).stRoute = s.stRoute := rfl
@[simp] theorem beginSettle_stIn : (beginSettle s).stIn = s.stIn := rfl
@[simp] theorem beginSettle_stOut : (beginSettle s).stOut = s.stOut := rfl
@[simp] theorem beginSettle_stPower : (beginSettle s).stPower = s.stPower := rfl
@[simp] theorem beginSettle_q : (beginSettle s).q = s.q := rfl
@[simp] theorem beginSettle_seqState : (beginSettle s).seqState = .settle := rfl
@[simp] theorem beginSettle_idx : (beginSettle s).idx = s.idx := rfl
@[simp] theorem beginSettle_timer : (beginSettle s).timer = 0 := rfl
@[simp] theorem beginSettle_curLen : (beginSettle s).curLen = s.curLen := rfl
@[simp] theorem beginSettle_curChars : (beginSettle s).curChars = s.curChars := rfl
@[simp] theorem beginSettle_wire : (beginSettle s).wire = s.wire := rfl
@[simp] theorem beginSettle_drainDone : (beginSettle s).drainDone = s.drainDone := rfl
@[simp] theorem beginSettle_drainOk : (beginSettle s).drainOk = s.drainOk := rfl
@[simp] theorem beginSettle_errWrite : (beginSettle s).errWrite = s.errWrite := rfl
@[simp] theorem beginSettle_errDrain : (beginSettle s).errDrain = s.errDrain := rfl
@[simp] theorem beginSettle_errQfull : (beginSettle s).errQfull = s.errQfull := rfl
@[simp] theorem beginSettle_qDepth : (beginSettle s).qDepth = s.qDepth := rfl
@[simp] theorem beginSettle_inputs : (beginSettle s).inputs = s.inputs := rfl
@[simp] theorem beginSettle_txFail : (beginSettle s).txFail = s.txFail := rfl
@[simp] theorem beginSettle_outs : (beginSettle s).outs = s.outs := rfl
@[simp] theorem beginSettle_freeCtr : (beginSettle s).freeCtr = s.freeCtr := rfl

end Sys2Proof.Machine
end

