-- ==== Sys2Proof/Laws/Ops.lean ====
section
/-!
SUPPORT. For each shared operation, once, everything it can do; later proofs cite these lemmas and do not unfold the operations.
-/
namespace Sys2Proof.Machine

variable {s t : State}

/-! ## Error conditions, writes, the drain answer -/

theorem whenUsable_of_usable (h : s.cfgFault = false) (t : State) : whenUsable s t = t := by simp [whenUsable, h]

theorem whenUsable_of_fault (h : s.cfgFault = true) (t : State) : whenUsable s t = s := by simp [whenUsable, h]

/-- What the entry action of a condition leaves: its flag and its log event (60_exceptions.md R231). -/
theorem raiseErr_eq (e : ErrCond) (s : State) :
    raiseErr e s = { s with
      errWrite := s.errWrite || e == .eWrite, errDrain := s.errDrain || e == .eDrain, errQfull := s.errQfull || e == .eQfull
      cfgFault := s.cfgFault || e == .eCfgLabel, outs := s.outs ++ [.log (logCode e)] } := by
  cases e <;> simp [raiseErr, setFlag, emit]

/-- What one write leaves (43_command_sequencer.md R182). -/
theorem txWrite_eq (b : Byte) (s : State) :
    txWrite b s = { s with outs := s.outs ++ writeOutputs b s.txFail, errWrite := s.errWrite || s.txFail } := by
  cases h : s.txFail <;> simp [txWrite, writeOutputs, h, raiseErr_eq, emit, logCode]

/-- What a drain answer leaves (10_state.md R35). -/
theorem drainAnswer_cases (ok : Bool) (s : State) :
    drainAnswer ok s = s ∨ s.cfgFault = false ∧ s.seqState = .drain ∧ drainAnswer ok s = { s with drainDone := true, drainOk := ok } := by
  unfold drainAnswer
  split
  · exact .inl rfl
  · split
    · exact .inr ⟨by simp_all, by assumption, rfl⟩
    · exact .inl rfl

/-! ## The receive path -/

theorem marker_known {label : BitVec 2} {m : Byte} (h : marker label = some m) :
    label = Config.labelTop ∧ m = Config.markerTop ∨ label = Config.labelBottom ∧ m = Config.markerBottom := by
  unfold marker at h
  split at h
  · exact .inl ⟨by assumption, by simp_all⟩
  · split at h
    · exact .inr ⟨by assumption, by simp_all⟩
    · simp at h

/-- A marker installs a candidate of exactly 13 bytes and opens a new one (40_frame_decoder.md R110). -/
theorem rxMarker_install (hs : s.rxSynced = true) (hc : s.rxCnt.toNat = 13) :
    rxMarker s = { installStatus (decodeFrame s.cfgOut4 s.rxBuf) s with rxSynced := true, rxCnt := 0 } := by
  simp [rxMarker, hs, hc]

theorem rxMarker_open (h : ¬ (s.rxSynced = true ∧ s.rxCnt.toNat = 13)) :
    rxMarker s = { s with rxSynced := true, rxCnt := 0 } := by
  simp only [rxMarker]; rw [if_neg h]

/-- A data byte below the fourteenth while synchronised (40_frame_decoder.md R111). -/
theorem rxData_store (b : Byte) (hs : s.rxSynced = true) (hc : s.rxCnt.toNat < 13) :
    rxData b s = { s with rxBuf := s.rxBuf.set s.rxCnt.toNat b, rxCnt := s.rxCnt + 1 } := by
  have h : s.rxCnt.toNat < 14 := by omega
  simp only [rxData, hs, if_true, Config.frameLen, Config.rxCntMax, hc, h]
  congr 1
  ext k hk
  simp [Vector.getElem_setIfInBounds, Vector.getElem_set]

/-- Everything a received byte can do to the state (40_frame_decoder.md R110 to R114). -/
theorem rxByte_cases (b : Byte) (s : State) :
    s.cfgFault = true ∧ rxByte b s = s ∨
    s.cfgFault = false ∧ marker s.cfgLabel = some b ∧ rxByte b s = rxMarker s ∨
    s.cfgFault = false ∧ marker s.cfgLabel ≠ some b ∧ rxByte b s = rxData b s := by
  unfold rxByte
  split
  · exact .inl ⟨by assumption, rfl⟩
  · split
    · exact .inr (.inl ⟨by simp_all, by assumption, rfl⟩)
    · exact .inr (.inr ⟨by simp_all, by assumption, rfl⟩)

/-- A state without its receive path and status: what a received byte cannot touch. -/
def eraseRx (s : State) : State :=
  { s with
    rxSynced := false, rxCnt := 0, rxBuf := Vector.replicate 13 0, stValid := false, stMem := Vector.replicate 4 0
    stRoute := Vector.replicate 4 0, stIn := Vector.replicate 4 false, stOut := Vector.replicate 4 false, stPower := false }

/-- A received byte touches nothing but the receive path and the status (10_state.md R41). -/
theorem rxByte_frame (b : Byte) (s : State) : eraseRx (rxByte b s) = eraseRx s := by
  obtain ⟨-, e⟩ | ⟨-, -, e⟩ | ⟨-, -, e⟩ := rxByte_cases b s <;> rw [e]
  · by_cases hc : s.rxSynced = true ∧ s.rxCnt.toNat = 13
    · rw [rxMarker_install hc.1 hc.2]; rfl
    · rw [rxMarker_open hc]; rfl
  · unfold rxData; split <;> rfl

/-- So do received bytes, however many. -/
theorem rxBytes_frame (bs : List Byte) (s : State) : eraseRx (rxBytes bs s) = eraseRx s := by
  induction bs generalizing s with
  | nil => rfl
  | cons b bs ih => exact (ih _).trans (rxByte_frame b s)

theorem rxByte_stValid (b : Byte) (h : s.stValid = true) : (rxByte b s).stValid = true := by
  obtain ⟨-, e⟩ | ⟨-, -, e⟩ | ⟨-, -, e⟩ := rxByte_cases b s <;> rw [e]
  · exact h
  · by_cases hc : s.rxSynced = true ∧ s.rxCnt.toNat = 13
    · rw [rxMarker_install hc.1 hc.2]; rfl
    · rw [rxMarker_open hc]; exact h
  · unfold rxData; split <;> exact h

theorem rxBytes_stValid (bs : List Byte) (h : s.stValid = true) : (rxBytes bs s).stValid = true := by
  induction bs generalizing s with
  | nil => exact h
  | cons b bs ih => exact ih (rxByte_stValid b h)

theorem rxBytes_append (as bs : List Byte) (s : State) : rxBytes (as ++ bs) s = rxBytes bs (rxBytes as s) := by
  induction as generalizing s with
  | nil => rfl
  | cons a as ih => exact ih _

/-! ## The encoder -/

/-- `PARSE` (42_command_encoder.md R151). -/
theorem parseDigit_eq_some {c d : Byte} : parseDigit c = some d ↔ (0x31 ≤ c.toNat ∧ c.toNat ≤ 0x39) ∧ d = c - 0x30 := by
  unfold parseDigit
  split <;> simp_all [eq_comm]

theorem parseDigit_eq_none {c : Byte} : parseDigit c = none ↔ ¬ (0x31 ≤ c.toNat ∧ c.toNat ≤ 0x39) := by
  unfold parseDigit
  split <;> simp_all

theorem parseDigit_toNat {c d : Byte} (h : parseDigit c = some d) : d.toNat = c.toNat - 0x30 := by
  obtain ⟨⟨h1, h2⟩, rfl⟩ := parseDigit_eq_some.1 h
  have h0 : (0x30 : Byte).toNat = 0x30 := rfl
  rw [BitVec.toNat_sub, h0]
  have := c.isLt
  omega

/-- `CMDINT` is exact in its domain (42_command_encoder.md R152, R155). -/
theorem cmdIndex_toNat {d i : Byte} (h1 : 1 ≤ d.toNat) (h9 : d.toNat ≤ 9) (h3 : i.toNat ≤ 3) :
    (cmdIndex d i).toNat = i.toNat * 4 + (d.toNat - 1) := by
  have hone : (1 : Byte).toNat = 1 := rfl
  have hfour : (4 : Byte).toNat = 4 := rfl
  rw [cmdIndex, BitVec.toNat_add, BitVec.toNat_mul, BitVec.toNat_sub, hone, hfour]
  omega

theorem complementByte_toNat (v : Byte) : (complementByte v).toNat = 255 - v.toNat := by
  have h255 : (255 : Byte).toNat = 255 := rfl
  have := v.isLt
  rw [complementByte, BitVec.toNat_sub, h255]
  omega

theorem complementByte_eq_not (v : Byte) : complementByte v = ~~~v := by
  apply BitVec.eq_of_toNat_eq
  rw [complementByte_toNat, BitVec.toNat_not]

/-- `ENCODE` yields the step of the digit's command index, or nothing (42_command_encoder.md R157). -/
theorem encodeStep_eq_some {c i : Byte} {w : Vector Byte 4} :
    encodeStep c i = some w ↔ ∃ d, parseDigit c = some d ∧ w = wireStep (cmdIndex d i) := by
  simp [encodeStep, eq_comm]

theorem wireStep_toList (v : Byte) : (wireStep v).toList = stepBytes v := by
  simp [wireStep, stepBytes, complementByte_eq_not, Vector.toList]

/-! ## The sequence pointer -/

theorem curChar_eq_some {c : Byte} : curChar s = some c ↔ s.idx.toNat < s.curLen.toNat ∧ s.curChars[s.idx.toNat]? = some c := by
  unfold curChar
  split <;> simp_all

theorem curChar_index {c : Byte} (h : curChar s = some c) : s.idx.toNat < s.curLen.toNat ∧ s.idx.toNat < 4 := by
  obtain ⟨h1, h2⟩ := curChar_eq_some.1 h
  refine ⟨h1, ?_⟩
  by_contra hc
  rw [Vector.getElem?_eq_none_iff.2 (by omega)] at h2
  cases h2

theorem curChar_isSome (h : s.idx.toNat < s.curLen.toNat) (h4 : s.curLen.toNat ≤ 4) : (curChar s).isSome = true := by
  have : s.idx.toNat < 4 := by omega
  simp [curChar, h, this]

theorem curChar_eq_none (h : s.curLen.toNat ≤ s.idx.toNat) : curChar s = none := by
  simp [curChar]; omega

theorem outputIndex_toNat (s : State) : (outputIndex s).toNat = s.idx.toNat := by
  have := s.idx.isLt
  simp [outputIndex]; omega

/-- A skip moves the pointer by one where there is a character to skip. -/
theorem nextChar_idx_toNat {c : Byte} (h : curChar s = some c) : (nextChar s).idx.toNat = s.idx.toNat + 1 := by
  have := (curChar_index h).2
  have h1 : (1 : BitVec 3).toNat = 1 := rfl
  rw [nextChar_idx, BitVec.toNat_add, h1]; omega

/-! ## Advance -/

/-- What `skipChars` leaves: only `IDX` moves, forward, over characters that do not parse; with enough fuel it stops at a character
that parses or where there is none (43_command_sequencer.md R175). -/
theorem skipChars_spec (n : Nat) (s : State) (hn : 4 ≤ s.idx.toNat + n) :
    ∃ j : BitVec 3, skipChars n s = { s with idx := j } ∧ s.idx.toNat ≤ j.toNat ∧ (s.idx.toNat < j.toNat → j.toNat ≤ s.curLen.toNat) ∧
      (∀ c, curChar { s with idx := j } = some c → (parseDigit c).isSome = true) ∧
      (∀ k : Fin 4, s.idx.toNat ≤ k.val → k.val < j.toNat → parseDigit s.curChars[k] = none) := by
  induction n generalizing s with
  | zero =>
    refine ⟨s.idx, rfl, le_refl _, fun h => absurd h (lt_irrefl _), fun c hc => ?_, fun k h1 h2 => by omega⟩
    have := (curChar_index (s := s) hc).2
    omega
  | succ n ih =>
    cases hc : curChar s with
    | none =>
      refine ⟨s.idx, by simp [skipChars, hc], le_refl _, fun h => absurd h (lt_irrefl _), fun c h => ?_, fun k h1 h2 => by omega⟩
      have h : curChar s = some c := h
      simp [hc] at h
    | some c =>
      cases hp : parseDigit c with
      | some d =>
        refine ⟨s.idx, by simp [skipChars, hc, hp], le_refl _, fun h => absurd h (lt_irrefl _), fun c' h => ?_,
          fun k h1 h2 => by omega⟩
        have h : curChar s = some c' := h
        simp_all
      | none =>
        have hi := nextChar_idx_toNat hc
        obtain ⟨j, he, hle, hlen, hstop, hskip⟩ := ih (nextChar s) (by omega)
        obtain ⟨hlt, h4⟩ := curChar_index hc
        rw [hi] at hle hlen hskip
        refine ⟨j, by simpa [skipChars, hc, hp] using he, by omega, fun _ => ?_, hstop, fun k h1 h2 => ?_⟩
        · by_cases hj : s.idx.toNat + 1 < j.toNat
          · exact hlen hj
          · omega
        · by_cases hk : k.val = s.idx.toNat
          · have hch := (curChar_eq_some.1 hc).2
            have : s.curChars[k] = c := by
              have hk4 : s.curChars[s.idx.toNat]? = some s.curChars[k] := by
                rw [← hk]; simp
              rw [hk4] at hch; exact Option.some.inj hch
            rw [this]; exact hp
          · exact hskip k (by omega) h2

/-- `skipChars` moves `IDX` only. -/
theorem skipChars_frame (n : Nat) (s : State) : skipChars n s = { s with idx := (skipChars n s).idx } := by
  induction n generalizing s with
  | zero => rfl
  | succ n ih =>
    rw [skipChars]
    split
    · rfl
    · split
      · rfl
      · rw [ih]; rfl

/-- `Advance` touches nothing but the request and the sequence pointer, whatever state it is given (43_command_sequencer.md R175). -/
theorem advanceOver_frame (waiting : List Request) (s : State) :
    ∃ q l cs i t st, advanceOver waiting s =
      { s with q := q, curLen := l, curChars := cs, idx := i, timer := t, seqState := st } := by
  induction waiting generalizing s with
  | nil =>
    rw [advanceOver, settleOr, skipChars_frame]
    split <;> exact ⟨_, _, _, _, _, _, rfl⟩
  | cons r rest ih =>
    rw [advanceOver, settleOr, skipChars_frame]
    split
    · exact ⟨_, _, _, _, _, _, rfl⟩
    · obtain ⟨q, l, cs, i, t, st, e⟩ := ih (loadRequest r rest { s with idx := (skipChars Config.reqMaxLen s).idx })
      exact ⟨q, l, cs, i, t, st, e⟩

/-- Everything `Advance` can do to a request of legal length with legal requests behind it: it begins the settle delay of a route
character, or it ends in `IDLE` with an empty queue (43_command_sequencer.md R175). -/
theorem advanceOver_spec (waiting : List Request) (s : State) (hl : s.curLen.toNat ≤ 4) (hq : s.q = waiting)
    (hw : ∀ r ∈ waiting, r.len.toNat ≤ 4) :
    ∃ t, advanceOver waiting s = t ∧
      (t.seqState = .settle ∧ t.timer = 0 ∧ (currentDigit t).isSome = true ∨ t.seqState = .idle ∧ t.q = [] ∧ t.timer = s.timer) ∧
      (∃ done, waiting = done ++ t.q) ∧ t.curLen.toNat ≤ 4 ∧ (s.idx.toNat ≤ 4 → t.idx.toNat ≤ 4) := by
  induction waiting generalizing s with
  | nil =>
    obtain ⟨j, he, hle, hlen, hstop, -⟩ := skipChars_spec Config.reqMaxLen s (by simp)
    rw [advanceOver, settleOr, he]
    cases hc : curChar { s with idx := j } with
    | some c =>
      refine ⟨_, rfl, .inl ⟨rfl, rfl, ?_⟩, ⟨[], by simp [hq]⟩, hl, fun _ => ?_⟩
      · have := hstop c hc
        change ((curChar { s with idx := j }).bind parseDigit).isSome = true
        simpa [hc] using this
      · have := (curChar_index hc).2
        simp only [beginSettle_idx]; omega
    | none =>
      refine ⟨_, rfl, .inr ⟨rfl, hq, rfl⟩, ⟨[], by simp [hq]⟩, hl, fun h4 => ?_⟩
      change j.toNat ≤ 4
      by_cases hj : s.idx.toNat < j.toNat
      · exact (hlen hj).trans hl
      · omega
  | cons r rest ih =>
    obtain ⟨j, he, hle, hlen, hstop, -⟩ := skipChars_spec Config.reqMaxLen s (by simp)
    rw [advanceOver, settleOr, he]
    cases hc : curChar { s with idx := j } with
    | some c =>
      refine ⟨_, rfl, .inl ⟨rfl, rfl, ?_⟩, ⟨[], by simp [hq]⟩, hl, fun _ => ?_⟩
      · have := hstop c hc
        change ((curChar { s with idx := j }).bind parseDigit).isSome = true
        simpa [hc] using this
      · have := (curChar_index hc).2
        simp only [beginSettle_idx]; omega
    | none =>
      obtain ⟨t, ht, hend, ⟨done, hd⟩, h1, h2⟩ :=
        ih (loadRequest r rest { s with idx := j }) (hw r (by simp)) rfl (fun x hx => hw x (by simp [hx]))
      exact ⟨t, ht, hend, ⟨r :: done, by simp [← hd]⟩, h1, fun _ => h2 (by simp)⟩

/-! ## The phases of a route step -/

/-- What entering `XMIT` leaves (43_command_sequencer.md R180). -/
theorem startXmit_eq (w : Vector Byte 4) (s : State) :
    startXmit w s = { s with
      wire := w, timer := 0, seqState := .xmit, outs := s.outs ++ writeOutputs w[0] s.txFail, errWrite := s.errWrite || s.txFail } := by
  simp [startXmit, txWrite_eq]

/-- What `BeginXmit` leaves, whatever the character at the pointer is (43_command_sequencer.md R180). -/
theorem beginXmit_eq (s : State) :
    ∃ w n, (∀ v, pointerStep s = some v → w = v ∧ n = s.freeCtr) ∧ beginXmit s = { s with
      wire := w, timer := 0, seqState := .xmit, outs := s.outs ++ writeOutputs w[0] s.txFail, errWrite := s.errWrite || s.txFail
      freeCtr := n } := by
  unfold beginXmit
  split
  · rename_i w hw
    exact ⟨w, s.freeCtr, fun v hv => ⟨by simpa [hw] using hv, rfl⟩, startXmit_eq w s⟩
  · rename_i hw
    exact ⟨_, s.freeCtr + 1, fun v hv => by simp [hw] at hv, by rw [startXmit_eq]⟩

/-- The wire bytes of a route character at the pointer (43_command_sequencer.md R180). -/
theorem pointerStep_of_char {c d : Byte} (hc : s.curChars[s.idx.toNat]? = some c) (hd : parseDigit c = some d) :
    pointerStep s = some (wireStep (cmdIndex d (outputIndex s))) := by
  rw [pointerStep, hc]
  exact encodeStep_eq_some.2 ⟨d, hd, rfl⟩

/-- `BeginXmit` with a route character at the pointer (43_command_sequencer.md R180). -/
theorem beginXmit_of_step {w : Vector Byte 4} (h : pointerStep s = some w) :
    beginXmit s = { s with
      wire := w, timer := 0, seqState := .xmit, outs := s.outs ++ writeOutputs w[0] s.txFail, errWrite := s.errWrite || s.txFail } := by
  simp [beginXmit, h, startXmit_eq]

/-- What the write of a tick in `XMIT` leaves: at most one wire byte is written (43_command_sequencer.md R181). -/
theorem staggeredWrite_cases (s : State) :
    (∃ k : Fin 4, 1 ≤ k.val ∧ s.timer.toNat = k.val * 50 ∧ staggeredWrite s =
      { s with outs := s.outs ++ writeOutputs s.wire[k] s.txFail, errWrite := s.errWrite || s.txFail }) ∨
    s.timer.toNat ∉ [50, 100, 150] ∧ staggeredWrite s = s := by
  unfold staggeredWrite
  split
  · exact .inl ⟨1, by simp, by simpa using ‹_›, txWrite_eq _ _⟩
  · split
    · exact .inl ⟨2, by simp, by simpa using ‹_›, txWrite_eq _ _⟩
    · split
      · exact .inl ⟨3, by simp, by simpa using ‹_›, txWrite_eq _ _⟩
      · refine .inr ⟨?_, rfl⟩
        simp only [Config.staggerMs, List.mem_cons, List.not_mem_nil, or_false] at *
        omega

end Sys2Proof.Machine
end

