-- ==== Sys2Proof/Laws/PerInstr.lean ====
section
/-!
SUPPORT. A family of statements about every instruction as syntax, one lemma per constructor.
-/
namespace Sys2Proof.Laws.EncodedLength

/-- The length of an instruction of a stream (30_encoding.md R80). -/
def streamLength : Stream → Nat
  | .rxb _ _ => 1
  | .rqc => 1
  | .ws4 => Config.stepWireBytes
  | .sf13 => Config.frameLen

/-- An instruction's bytes are as many as the format of each stream it belongs to has (30_encoding.md R80, R92). -/
def Statement (i : Instr) : Prop :=
  ∀ st bytes, encode i = some bytes → i.belongsTo st = true → bytes.length = streamLength st

/-- The statement for every instruction at once: the decoder's formats have one length each. -/
theorem of_stream (i : Instr) : Statement i := by
  intro st bytes he hb
  cases i <;> first
    | (simp only [encode, Option.some.injEq] at he; subst he; cases st <;> first | rfl | exact Vector.length_toList | cases hb)
    | cases he

theorem rxMarkerTop : Statement .rxMarkerTop := of_stream _
theorem rxMarkerBottom : Statement .rxMarkerBottom := of_stream _
theorem rxDataSynced (b : Byte) : Statement (.rxDataSynced b) := of_stream _
theorem rxDataUnsynced (b : Byte) : Statement (.rxDataUnsynced b) := of_stream _
theorem skip : Statement .skip := of_stream _
theorem route1 : Statement .route1 := of_stream _
theorem route2 : Statement .route2 := of_stream _
theorem route3 : Statement .route3 := of_stream _
theorem route4 : Statement .route4 := of_stream _
theorem route5 : Statement .route5 := of_stream _
theorem route6 : Statement .route6 := of_stream _
theorem route7 : Statement .route7 := of_stream _
theorem route8 : Statement .route8 := of_stream _
theorem route9 : Statement .route9 := of_stream _
theorem skipinv (c : Byte) : Statement (.skipinv c) := of_stream _
theorem ws4General (cmd comp : Byte) : Statement (.ws4General cmd comp) := of_stream _
theorem ws4Out1In1 : Statement .ws4Out1In1 := of_stream _
theorem ws4Out1In2 : Statement .ws4Out1In2 := of_stream _
theorem ws4Out1In3 : Statement .ws4Out1In3 := of_stream _
theorem ws4Out1In4 : Statement .ws4Out1In4 := of_stream _
theorem ws4Out2In1 : Statement .ws4Out2In1 := of_stream _
theorem ws4Out2In2 : Statement .ws4Out2In2 := of_stream _
theorem ws4Out2In3 : Statement .ws4Out2In3 := of_stream _
theorem ws4Out2In4 : Statement .ws4Out2In4 := of_stream _
theorem ws4Out3In1 : Statement .ws4Out3In1 := of_stream _
theorem ws4Out3In2 : Statement .ws4Out3In2 := of_stream _
theorem ws4Out3In3 : Statement .ws4Out3In3 := of_stream _
theorem ws4Out3In4 : Statement .ws4Out3In4 := of_stream _
theorem ws4Out4In1 : Statement .ws4Out4In1 := of_stream _
theorem ws4Out4In2 : Statement .ws4Out4In2 := of_stream _
theorem ws4Out4In3 : Statement .ws4Out4In3 := of_stream _
theorem ws4Out4In4 : Statement .ws4Out4In4 := of_stream _
theorem sf13 (f : Vector Byte 13) : Statement (.sf13 f) := of_stream _
theorem getPortNumber (code : Byte) : Statement (.getPortNumber code) := of_stream _
theorem isAvailable (byte : Byte) (pos : BitVec 3) : Statement (.isAvailable byte pos) := of_stream _
theorem decodeFn (f : Vector Byte 13) : Statement (.decodeFn f) := of_stream _
theorem install (st : DeviceStatus) : Statement (.install st) := of_stream _
theorem parse (c : Byte) : Statement (.parse c) := of_stream _
theorem cmdint (d : BitVec 4) (i : BitVec 2) : Statement (.cmdint d i) := of_stream _
theorem complement (v : Byte) : Statement (.complement v) := of_stream _
theorem encodeFn (c : Byte) (i : BitVec 2) : Statement (.encodeFn c i) := of_stream _
theorem getstatus : Statement .getstatus := of_stream _
theorem switchcmd (r : Request) : Statement (.switchcmd r) := of_stream _
theorem reset (st : Straps) : Statement (.reset st) := of_stream _
theorem seqStart : Statement .seqStart := of_stream _
theorem seqAdvance : Statement .seqAdvance := of_stream _
theorem seqSettle : Statement .seqSettle := of_stream _
theorem seqBeginXmit : Statement .seqBeginXmit := of_stream _
theorem seqXmit : Statement .seqXmit := of_stream _
theorem seqDrain : Statement .seqDrain := of_stream _
theorem seqEndStep : Statement .seqEndStep := of_stream _

end Sys2Proof.Laws.EncodedLength
end

