-- ==== Sys2Proof/Laws/Step.lean ====
section
/-!
SUPPORT. What one tick does in each state of the sequencer, one step on a tick, and how steps follow one another.
-/
namespace Sys2Proof.Machine

variable {s t : State}

/-! ## Advance, over characters that do not parse -/

/-- With a route character at `j` and only skipped characters before it, `Advance` moves the pointer to `j`. -/
theorem skipChars_to (n : Nat) : ∀ (s : State) (j : Nat), j < 4 → s.idx.toNat ≤ j → j < s.idx.toNat + n → s.curLen.toNat ≤ 4 →
    j < s.curLen.toNat →
    (∀ k : Fin 4, s.idx.toNat ≤ k.val → k.val < j → parseDigit s.curChars[k] = none) →
    (∀ c, s.curChars[j]? = some c → (parseDigit c).isSome = true) →
    skipChars n s = { s with idx := BitVec.ofNat 3 j } := by
  induction n with
  | zero => intros; omega
  | succ n ih =>
    intro s j hj h1 h2 h3 h4 h5 h6
    have hx : s.idx.toNat < 4 := by omega
    have hc : curChar s = some s.curChars[s.idx.toNat] := by simp [curChar, hx]; omega
    by_cases e : s.idx.toNat = j
    · have : (parseDigit s.curChars[s.idx.toNat]).isSome := h6 _ (by simp [← e, hx])
      have e' : BitVec.ofNat 3 j = s.idx := by rw [← e]; simp
      simp [skipChars, hc, this, e']
    · have : parseDigit s.curChars[s.idx.toNat] = none := h5 ⟨s.idx.toNat, hx⟩ (le_refl _) (by simp; omega)
      have hi := nextChar_idx_toNat hc
      have := ih (nextChar s) j hj (by omega) (by omega) h3 h4 (fun k a b => h5 k (by omega) b) h6
      simp [skipChars, *]

/-- With skipped characters only, `Advance` moves the pointer to the end of the request. -/
theorem skipChars_end (n : Nat) : ∀ (s : State), s.idx.toNat ≤ s.curLen.toNat → s.curLen.toNat ≤ s.idx.toNat + n → s.curLen.toNat ≤ 4 →
    (∀ k : Fin 4, s.idx.toNat ≤ k.val → k.val < s.curLen.toNat → parseDigit s.curChars[k] = none) →
    skipChars n s = { s with idx := s.curLen } := by
  induction n with
  | zero =>
    intro s h1 h2 h3 h4
    have : s.idx = s.curLen := by apply BitVec.eq_of_toNat_eq; omega
    cases s; simp_all [skipChars]
  | succ n ih =>
    intro s h1 h2 h3 h5
    by_cases e : s.idx.toNat = s.curLen.toNat
    · have e' : s.idx = s.curLen := BitVec.eq_of_toNat_eq e
      simp [skipChars, curChar_eq_none (s := s) (by omega)]; cases s; simp_all
    · have hx : s.idx.toNat < 4 := by omega
      have hc : curChar s = some s.curChars[s.idx.toNat] := by simp [curChar, hx]; omega
      have : parseDigit s.curChars[s.idx.toNat] = none := h5 ⟨s.idx.toNat, hx⟩ (le_refl _) (by simp; omega)
      have hi := nextChar_idx_toNat hc
      have := ih (nextChar s) (by simp at hi ⊢; omega) (by simp at hi ⊢; omega) h3 (fun k a b => h5 k (by omega) b)
      simp [skipChars, *]

/-! ## The sequencer's actions where `SEQ_STATE` selects them (43_command_sequencer.md R173) -/

theorem exec_seqStart_idle (h0 : s.cfgFault = false) (h1 : s.seqState = .idle) : exec .seqStart s = .next (startRequest s) := by
  show Host.Outcome.next (whenUsable s _) = _
  rw [whenUsable_of_usable h0, if_pos h1]

theorem exec_seqSettle_settle (h0 : s.cfgFault = false) (h1 : s.seqState = .settle) : exec .seqSettle s = .next (settleTick s) := by
  show Host.Outcome.next (whenUsable s _) = _
  rw [whenUsable_of_usable h0, if_pos h1]

theorem exec_seqXmit_xmit (h0 : s.cfgFault = false) (h1 : s.seqState = .xmit) : exec .seqXmit s = .next (xmitTick s) := by
  show Host.Outcome.next (whenUsable s _) = _
  rw [whenUsable_of_usable h0, if_pos h1]

theorem exec_seqDrain_drain (h0 : s.cfgFault = false) (h1 : s.seqState = .drain) : exec .seqDrain s = .next (drainTick s) := by
  show Host.Outcome.next (whenUsable s _) = _
  rw [whenUsable_of_usable h0, if_pos h1]

/-! ## One tick -/

theorem timer_succ (h : s.timer.toNat < 500) : (s.timer + 1).toNat = s.timer.toNat + 1 := by
  rw [BitVec.toNat_add]; simp; omega

/-- A tick of the settle delay before the last (43_command_sequencer.md R179). -/
theorem settleTick_count (h : s.timer.toNat + 1 < 500) : settleTick s = { s with timer := s.timer + 1 } := by
  have := timer_succ (s := s) (by omega)
  unfold settleTick
  exact if_neg (by show ¬ (s.timer + 1).toNat = 500; omega)

/-- The last tick of the settle delay (43_command_sequencer.md R179). -/
theorem settleTick_begin (h : s.timer.toNat = 499) : settleTick s = beginXmit { s with timer := s.timer + 1 } := by
  have := timer_succ (s := s) (by omega)
  unfold settleTick
  exact if_pos (by show (s.timer + 1).toNat = 500; omega)

/-- A tick with a write (43_command_sequencer.md R181). -/
theorem xmitTick_write (k : Fin 4) (hk : 1 ≤ k.val) (h : s.timer.toNat + 1 = k.val * 50) :
    xmitTick s = { s with timer := s.timer + 1, outs := s.outs ++ writeOutputs s.wire[k] s.txFail, errWrite := s.errWrite || s.txFail } := by
  have ht := timer_succ (s := s) (by omega)
  unfold xmitTick
  obtain ⟨k', a, b, c⟩ | ⟨a, b⟩ := staggeredWrite_cases { s with timer := s.timer + 1 }
  · have : k' = k := by ext; simp only [ht] at b; omega
    subst this
    rw [c]; exact if_neg (by show ¬ (s.timer+1).toNat = 250; omega)
  · exfalso; simp only [ht, h] at a; fin_cases k <;> simp at a hk

/-- A tick without (43_command_sequencer.md R181). -/
theorem xmitTick_silent (h : s.timer.toNat + 1 < 250) (h2 : s.timer.toNat + 1 ∉ [50, 100, 150]) :
    xmitTick s = { s with timer := s.timer + 1 } := by
  have ht := timer_succ (s := s) (by omega)
  unfold xmitTick
  obtain ⟨k', a, b, c⟩ | ⟨a, b⟩ := staggeredWrite_cases { s with timer := s.timer + 1 }
  · exfalso; simp only [ht] at b; rw [b] at h2; fin_cases k' <;> simp at h2 a
  · rw [b]; exact if_neg (by show ¬ (s.timer+1).toNat = 250; omega)

/-- The tick of the drain request (43_command_sequencer.md R181, R183). -/
theorem xmitTick_drain (h : s.timer.toNat = 249) : xmitTick s = drainRequest { s with timer := s.timer + 1 } := by
  have ht := timer_succ (s := s) (by omega)
  unfold xmitTick
  obtain ⟨k', a, b, c⟩ | ⟨a, b⟩ := staggeredWrite_cases { s with timer := s.timer + 1 }
  · exfalso; simp only [ht] at b; omega
  · rw [b]; exact if_pos (by show (s.timer+1).toNat = 250; omega)

/-- A step on a clock edge with nothing but a tick (43_command_sequencer.md R173). -/
theorem step_tick {fails : Bool} {rest : List Input} (h : s.inputs = tickInput fails :: rest) :
    step s = exec (tickInstr s) { s with inputs := rest, txFail := fails } := by
  simp [step, fetch, h, tickInput, nextEvent, fetchedOr, eventInstr, putBack, tickInstr]

/-! ## Steps one after the other -/

theorem after_succ {n : Nat} {s t : State} (h : step s = .next t) : after (n+1) s = after n t := by
  simp [after, h]

theorem after_add (m : Nat) : ∀ {n : Nat} {s t : State}, after m s = some t → after (m+n) s = after n t := by
  induction m with
  | zero => intro n s t h; simp [after] at h; simp [h]
  | succ m ih =>
    intro n s t h
    cases hs : step s with
    | next u =>
      rw [after_succ hs] at h
      rw [show m + 1 + n = (m + n) + 1 by omega, after_succ hs, ih h]
    | fault f => simp [after, hs] at h
    | refused f => simp [after, hs] at h

end Sys2Proof.Machine
end

