-- ==== Sys2Proof/Laws/Run.lean ====
section
/-!
SUPPORT. Handling a clock edge to its end: how many events it holds and the induction over them, what every instruction keeps,
that handling uses every input up, and what a step in `DRAIN` can do.
-/
namespace Sys2Proof.Machine

variable {s t : State}

/-- How many steps the events of an edge take; a `Reset` cancels the others (60_exceptions.md R236). -/
def edgeCount (e : Edge) : Nat :=
  if e.reset.isSome then 1
  else e.getStatus.toNat + e.rx.isSome.toNat + e.switchCmd.isSome.toNat + e.drainDone.isSome.toNat + e.tick.toNat

theorem edgeCount_le (e : Edge) : edgeCount e ≤ 5 := by
  have h := fun b : Bool => b.toNat_le
  unfold edgeCount
  split
  · omega
  · have := h e.getStatus; have := h e.rx.isSome; have := h e.switchCmd.isSome; have := h e.drainDone.isSome; have := h e.tick
    omega

/-- Taking an event leaves one event less. -/
theorem edgeCount_nextEvent {e left : Edge} {ev : Event} (h : nextEvent e = some (ev, left)) : edgeCount left + 1 = edgeCount e := by
  obtain ⟨r, g, x, c, d, k, f⟩ := e
  unfold nextEvent at h
  split at h <;> simp_all <;> obtain ⟨-, rfl⟩ := h <;> simp [edgeCount] <;> omega

theorem nextEvent_eq_none {e : Edge} (h : nextEvent e = none) :
    e.reset = none ∧ e.getStatus = false ∧ e.rx = none ∧ e.switchCmd = none ∧ e.drainDone = none ∧ e.tick = false := by
  obtain ⟨r, g, x, c, d, k, f⟩ := e
  unfold nextEvent at h
  split at h <;> simp_all

/-- Without inputs nothing happens (log 1). -/
theorem step_of_no_inputs (h : s.inputs = []) : step s = .next s := by simp [step, fetch, h]

theorem after_of_no_inputs (n : Nat) (h : s.inputs = []) : after n s = some s := by
  induction n with
  | zero => rfl
  | succ n ih => rw [after_succ (step_of_no_inputs h), ih]

/-- A step on an edge without events drops the edge. -/
theorem step_of_no_event {e : Edge} {rest : List Input} (h : s.inputs = .edge e :: rest) (hn : nextEvent e = none) :
    step s = .next { s with inputs := rest } := by simp [step, fetch, h, hn]

/-- Induction over the events of one edge: what every event keeps, with what is left of the edge, holds when the edge is used up. -/
theorem after_edge (P : Edge → State → Prop)
    (hkeep : ∀ e u ev left, P e u → u.inputs = [.edge e] → nextEvent e = some (ev, left) →
      ∃ t, step u = .next t ∧ t.inputs = putBack left [] ∧ P left t)
    (hdrop : ∀ e u, P e u → nextEvent e = none → P e { u with inputs := [] })
    (n : Nat) (e : Edge) (u : State) (hn : edgeCount e ≤ n) (h1 : 1 ≤ n) (hP : P e u) (hi : u.inputs = [.edge e]) :
    ∃ t left, after n u = some t ∧ t.inputs = [] ∧ nextEvent left = none ∧ P left t := by
  induction n generalizing e u with
  | zero => omega
  | succ n ih =>
    cases hne : nextEvent e with
    | none =>
      refine ⟨{ u with inputs := [] }, e, ?_, rfl, hne, hdrop e u hP hne⟩
      rw [after_succ (step_of_no_event hi hne)]
      exact after_of_no_inputs n rfl
    | some p =>
      obtain ⟨ev, left⟩ := p
      obtain ⟨t, ht, hti, hPt⟩ := hkeep e u ev left hP hi hne
      have hc := edgeCount_nextEvent hne
      rw [after_succ ht]
      cases hl : nextEvent left with
      | none =>
        have h0 : t.inputs = [] := by rw [hti]; simp [putBack, hl]
        exact ⟨t, left, after_of_no_inputs n h0, h0, hl, hPt⟩
      | some q =>
        have h2 := edgeCount_nextEvent (ev := q.1) (left := q.2) hl
        exact ih left t (by omega) (by omega) hPt (by rw [hti]; simp [putBack, hl])

/-- The same for the whole handling of the inputs of a state with one edge. -/
theorem inputsHandled_edge (P : Edge → State → Prop)
    (hkeep : ∀ e u ev left, P e u → u.inputs = [.edge e] → nextEvent e = some (ev, left) →
      ∃ t, step u = .next t ∧ t.inputs = putBack left [] ∧ P left t)
    (hdrop : ∀ e u, P e u → nextEvent e = none → P e { u with inputs := [] })
    {e : Edge} {u : State} (hP : P e u) (hi : u.inputs = [.edge e]) :
    ∃ t left, inputsHandled u = some t ∧ t.inputs = [] ∧ nextEvent left = none ∧ P left t := by
  have := edgeCount_le e
  unfold inputsHandled
  rw [hi]
  exact after_edge P hkeep hdrop 5 e u this (by omega) hP hi

/-! ## What every instruction keeps -/

/-- The inputs still to come and `CFG_FAULT` are the same in both states. -/
abbrev Kept (s t : State) : Prop := t.inputs = s.inputs ∧ t.cfgFault = s.cfgFault

/-- Under `CFG_FAULT` the sequencer is `IDLE`, a part of the invariant (60_exceptions.md R232). -/
abbrev faultIdle (s : State) : Prop := s.cfgFault = true → s.seqState = .idle

theorem rxBytes_kept (bs : List Byte) (s : State) : Kept s (rxBytes bs s) ∧ (rxBytes bs s).seqState = s.seqState := by
  have e := rxBytes_frame bs s
  have h1 := congrArg State.inputs e
  have h2 := congrArg State.cfgFault e
  have h3 := congrArg State.seqState e
  exact ⟨⟨h1, h2⟩, h3⟩

theorem rxBytes_faultIdle (bs : List Byte) (h : faultIdle s) : faultIdle (rxBytes bs s) := fun hf => by
  obtain ⟨⟨-, h2⟩, h3⟩ := rxBytes_kept bs s
  exact h3.trans (h (h2.symm.trans hf))

theorem advance_kept (s : State) : Kept s (advance s) := by
  obtain ⟨q, l, cs, i, u, st, e⟩ := advanceOver_frame s.q s
  have h1 := congrArg State.inputs e
  have h2 := congrArg State.cfgFault e
  exact ⟨h1, h2⟩

theorem startRequest_kept (s : State) : Kept s (startRequest s) := by
  unfold startRequest
  split
  · exact ⟨rfl, rfl⟩
  · exact advance_kept _

theorem beginXmit_kept (s : State) : Kept s (beginXmit s) := by
  obtain ⟨w, n, -, e⟩ := beginXmit_eq s
  have h1 := congrArg State.inputs e
  have h2 := congrArg State.cfgFault e
  exact ⟨h1, h2⟩

theorem settleTick_kept (s : State) : Kept s (settleTick s) := by
  unfold settleTick
  simp only
  split
  · exact beginXmit_kept _
  · exact ⟨rfl, rfl⟩

theorem xmitTick_kept (s : State) : Kept s (xmitTick s) := by
  unfold xmitTick
  obtain ⟨k, -, -, e⟩ | ⟨-, e⟩ := staggeredWrite_cases { s with timer := s.timer + 1 } <;>
    simp only [e] <;> split <;> exact ⟨rfl, rfl⟩

theorem drainTick_kept (s : State) : Kept s (drainTick s) := by
  unfold drainTick
  split
  · split
    · exact advance_kept _
    · obtain ⟨h1, h2⟩ := advance_kept (nextChar (raiseErr .eDrain s))
      exact ⟨h1, h2.trans (by simp [raiseErr_eq])⟩
  · exact ⟨rfl, rfl⟩

/-- What an instruction guarded by `CFG_FAULT` keeps. -/
theorem whenUsable_kept (h : Kept s t) :
    (whenUsable s t).inputs = s.inputs ∧ (faultIdle s → faultIdle (whenUsable s t)) := by
  unfold whenUsable
  split
  · exact ⟨rfl, id⟩
  · rename_i hf
    exact ⟨h.1, fun _ ht => absurd (h.2.symm.trans ht) hf⟩

theorem resetWith_kept (st : Straps) (u : Unspecified) (s : State) :
    (resetWith st u s).inputs = s.inputs ∧ (resetWith st u s).seqState = .idle := by
  unfold resetWith
  simp only
  split <;> exact ⟨rfl, rfl⟩

/-- Every instruction answers a next state, with the inputs still to come as they were, and `IDLE` under `CFG_FAULT`. -/
theorem exec_kept (i : Instr) (s : State) : ∃ t, exec i s = .next t ∧ t.inputs = s.inputs ∧ (faultIdle s → faultIdle t) := by
  have bytes : ∀ bs : List Byte, (rxBytes bs s).inputs = s.inputs ∧ (faultIdle s → faultIdle (rxBytes bs s)) :=
    fun bs => ⟨(rxBytes_kept bs s).1.1, rxBytes_faultIdle bs⟩
  cases i with
  | rxMarkerTop => exact ⟨_, rfl, bytes [_]⟩
  | rxMarkerBottom => exact ⟨_, rfl, bytes [_]⟩
  | rxDataSynced b => exact ⟨_, rfl, bytes [b]⟩
  | rxDataUnsynced b => exact ⟨_, rfl, bytes [b]⟩
  | sf13 f =>
    change ∃ t, execSf13 f s = _ ∧ _
    unfold execSf13
    split
    · exact ⟨_, rfl, rfl, id⟩
    · exact ⟨_, rfl, bytes _⟩
  | switchcmd r =>
    change ∃ t, execSwitchcmd r s = _ ∧ _
    unfold execSwitchcmd
    split_ifs <;> exact ⟨_, rfl, rfl, id⟩
  | reset st => exact ⟨_, rfl, (resetWith_kept _ _ s).1, fun _ _ => (resetWith_kept _ _ s).2⟩
  | seqStart => exact ⟨_, rfl, whenUsable_kept (by split <;> first | exact startRequest_kept s | exact ⟨rfl, rfl⟩)⟩
  | seqAdvance => exact ⟨_, rfl, whenUsable_kept (advance_kept s)⟩
  | seqSettle => exact ⟨_, rfl, whenUsable_kept (by split <;> first | exact settleTick_kept s | exact ⟨rfl, rfl⟩)⟩
  | seqBeginXmit => exact ⟨_, rfl, whenUsable_kept (beginXmit_kept s)⟩
  | seqXmit => exact ⟨_, rfl, whenUsable_kept (by split <;> first | exact xmitTick_kept s | exact ⟨rfl, rfl⟩)⟩
  | seqDrain =>
    refine ⟨_, rfl, whenUsable_kept ?_⟩
    split
    · exact drainTick_kept s
    · split <;> exact ⟨rfl, rfl⟩
  | seqEndStep => exact ⟨_, rfl, whenUsable_kept (by split <;> first | exact advance_kept _ | exact ⟨rfl, rfl⟩)⟩
  | getPortNumber => exact ⟨_, rfl, rfl, id⟩
  | isAvailable => exact ⟨_, rfl, rfl, id⟩
  | decodeFn => exact ⟨_, rfl, rfl, id⟩
  | parse => exact ⟨_, rfl, rfl, id⟩
  | cmdint => exact ⟨_, rfl, rfl, id⟩
  | complement => exact ⟨_, rfl, rfl, id⟩
  | encodeFn => exact ⟨_, rfl, rfl, id⟩
  | getstatus => exact ⟨_, rfl, rfl, id⟩
  | _ => exact ⟨_, rfl, whenUsable_kept ⟨rfl, rfl⟩⟩

/-! ## What a step does with its input -/

/-- A step on a clock edge runs the instruction of the next event, or has the effect of an event without one. -/
theorem step_of_event {e left : Edge} {rest : List Input} {ev : Event} (h : s.inputs = .edge e :: rest)
    (hn : nextEvent e = some (ev, left)) :
    (∃ i, eventInstr ev { s with inputs := putBack left rest, txFail := e.txFail } = some i ∧
      step s = exec i { s with inputs := putBack left rest, txFail := e.txFail }) ∨
    eventInstr ev { s with inputs := putBack left rest, txFail := e.txFail } = none ∧
      step s = .next (eventEffect ev { s with inputs := putBack left rest, txFail := e.txFail }) := by
  cases hi : eventInstr ev { s with inputs := putBack left rest, txFail := e.txFail } with
  | some i => exact .inl ⟨i, rfl, by simp [step, fetch, h, hn, hi, fetchedOr]⟩
  | none => exact .inr ⟨rfl, by simp [step, fetch, h, hn, hi, fetchedOr]⟩

theorem eventEffect_kept (ev : Event) (s : State) :
    (eventEffect ev s).inputs = s.inputs ∧ (faultIdle s → faultIdle (eventEffect ev s)) := by
  unfold eventEffect
  split
  · obtain e' | ⟨-, -, e'⟩ := drainAnswer_cases ‹Bool› s <;> rw [e'] <;> exact ⟨rfl, id⟩
  · exact ⟨rfl, id⟩

/-- A step on a clock edge takes its next event, or drops it, and answers a next state. -/
theorem step_edge {e : Edge} {rest : List Input} (h : s.inputs = .edge e :: rest) :
    ∃ t, step s = .next t ∧ (faultIdle s → faultIdle t) ∧
      (nextEvent e = none ∧ t.inputs = rest ∨ ∃ ev left, nextEvent e = some (ev, left) ∧ t.inputs = putBack left rest) := by
  cases hn : nextEvent e with
  | none => exact ⟨_, step_of_no_event h hn, id, .inl ⟨rfl, rfl⟩⟩
  | some p =>
    obtain ⟨ev, left⟩ := p
    obtain ⟨i, -, hs⟩ | ⟨-, hs⟩ := step_of_event h hn
    · obtain ⟨t, ht, hti, htf⟩ := exec_kept i { s with inputs := putBack left rest, txFail := e.txFail }
      exact ⟨t, hs.trans ht, htf, .inr ⟨ev, left, rfl, hti⟩⟩
    · obtain ⟨hti, htf⟩ := eventEffect_kept ev { s with inputs := putBack left rest, txFail := e.txFail }
      exact ⟨_, hs, htf, .inr ⟨ev, left, rfl, hti⟩⟩

/-- A step on one of the model's own inputs that answers a next state runs an instruction. -/
theorem step_own_input {x : Input} {rest : List Input} (hx : x.isEdge = false) (h : s.inputs = x :: rest) (ht : step s = .next t) :
    ∃ i, exec i { s with inputs := rest } = .next t := by
  cases x with
  | edge e => cases hx
  | op i => exact ⟨i, by simpa [step, fetch, h] using ht⟩
  | char =>
    cases hc : (curChar s).bind (byteInstr .rqc) with
    | none => simp [step, fetch, h, hc, fetchedOr] at ht
    | some i => exact ⟨i, by simpa [step, fetch, h, hc, fetchedOr] using ht⟩
  | word n w =>
    cases hc : decodeTableWord n w with
    | none => simp [step, fetch, h, hc, fetchedOr] at ht
    | some i => exact ⟨i, by simpa [step, fetch, h, hc, fetchedOr] using ht⟩

/-! ## Every handled input is used up -/

/-- How many steps an input takes at most. -/
def inputCount : Input → Nat
  | .edge e => max 1 (edgeCount e)
  | .char => 1
  | .word _ _ => 1
  | .op _ => 1

theorem inputCount_bounds (x : Input) : 1 ≤ inputCount x ∧ inputCount x ≤ 5 := by
  cases x with
  | edge e => have := edgeCount_le e; simp only [inputCount]; omega
  | _ => simp [inputCount]

/-- A step that answers a next state uses up part of the first input, and keeps `faultIdle`. -/
theorem step_inputCount {x : Input} {rest : List Input} (h : s.inputs = x :: rest) (ht : step s = .next t) :
    (t.inputs.map inputCount).sum + 1 ≤ inputCount x + (rest.map inputCount).sum ∧ (faultIdle s → faultIdle t) := by
  have hx := (inputCount_bounds x).1
  cases hk : x.isEdge with
  | false =>
    obtain ⟨i, hi⟩ := step_own_input hk h ht
    obtain ⟨u, hu, hui, huf⟩ := exec_kept i { s with inputs := rest }
    rw [hi] at hu
    cases hu
    exact ⟨by rw [hui]; show (rest.map inputCount).sum + 1 ≤ _; omega, huf⟩
  | true =>
    cases x with
    | edge e =>
      obtain ⟨u, hu, huf, hc⟩ := step_edge h
      rw [hu] at ht
      cases ht
      refine ⟨?_, huf⟩
      obtain ⟨-, hr⟩ | ⟨ev, left, hn, hr⟩ := hc
      · rw [hr]; omega
      · have hcnt := edgeCount_nextEvent hn
        rw [hr]
        unfold putBack
        split
        · rename_i hl
          obtain ⟨q, hq⟩ := Option.isSome_iff_exists.1 hl
          have := edgeCount_nextEvent (ev := q.1) (left := q.2) hq
          simp only [List.map_cons, List.sum_cons, inputCount]
          omega
        · simp only [inputCount]; omega
    | _ => cases hk

theorem step_faultIdle (h : faultIdle s) (ht : step s = .next t) : faultIdle t := by
  cases hs : s.inputs with
  | nil => rw [step_of_no_inputs hs] at ht; cases ht; exact h
  | cons x rest => exact (step_inputCount hs ht).2 h

theorem after_faultIdle (n : Nat) (h : faultIdle s) (ht : after n s = some t) : faultIdle t := by
  induction n generalizing s with
  | zero => cases ht; exact h
  | succ n ih =>
    cases hs : step s with
    | next u => rw [after_succ hs] at ht; exact ih (step_faultIdle h hs) ht
    | fault f => simp [after, hs] at ht
    | refused f => simp [after, hs] at ht

theorem afterEdges_faultIdle {env : Nat → Edge} {n : Nat} (h : faultIdle s) (ht : afterEdges env n s = some t) : faultIdle t := by
  induction n generalizing t with
  | zero => exact after_faultIdle _ h ht
  | succ n ih =>
    obtain ⟨u, hu, hu'⟩ := Option.bind_eq_some_iff.1 ht
    have h1 : faultIdle u := ih hu
    have h2 : faultIdle { u with inputs := u.inputs ++ [.edge (env n)] } := h1
    exact after_faultIdle _ h2 hu'

theorem after_inputs_nil (n : Nat) (s t : State) (h : after n s = some t) (hn : (s.inputs.map inputCount).sum ≤ n) : t.inputs = [] := by
  induction n generalizing s with
  | zero =>
    cases hs : s.inputs with
    | nil => rw [after_of_no_inputs 0 hs] at h; cases h; exact hs
    | cons x rest =>
      have := (inputCount_bounds x).1
      simp only [hs, List.map_cons, List.sum_cons] at hn
      omega
  | succ n ih =>
    cases hs : s.inputs with
    | nil => rw [after_of_no_inputs _ hs] at h; cases h; exact hs
    | cons x rest =>
      cases hst : step s with
      | next u =>
        rw [after_succ hst] at h
        have := (step_inputCount hs hst).1
        simp only [hs, List.map_cons, List.sum_cons] at hn
        exact ih u h (by omega)
      | fault f => simp [after, hst] at h
      | refused f => simp [after, hst] at h

/-- Handling the inputs uses all of them up. -/
theorem inputsHandled_inputs (h : inputsHandled s = some t) : t.inputs = [] := by
  refine after_inputs_nil _ s t h ?_
  have : ∀ xs : List Input, (xs.map inputCount).sum ≤ 5 * xs.length := by
    intro xs
    induction xs with
    | nil => simp
    | cons x xs ih => have := (inputCount_bounds x).2; simp only [List.map_cons, List.sum_cons, List.length_cons]; omega
  exact this s.inputs

theorem afterEdges_inputs {env : Nat → Edge} {n : Nat} (h : afterEdges env n s = some t) : t.inputs = [] := by
  cases n with
  | zero => exact inputsHandled_inputs h
  | succ n =>
    obtain ⟨u, -, hu⟩ := Option.bind_eq_some_iff.1 h
    exact inputsHandled_inputs hu

/-! ## A step in `DRAIN` -/

/-- `Advance` ends in `SETTLE` or in `IDLE` (43_command_sequencer.md R175). -/
theorem advanceOver_seqState (w : List Request) (s : State) :
    (advanceOver w s).seqState = .settle ∨ (advanceOver w s).seqState = .idle := by
  induction w generalizing s with
  | nil => rw [advanceOver, settleOr]; split <;> simp
  | cons r w ih =>
    rw [advanceOver, settleOr]
    split
    · simp
    · exact ih _

/-- A tick in `DRAIN` waits, or leaves `DRAIN` once the drain is answered (43_command_sequencer.md R183). -/
theorem drainTick_cases (s : State) :
    s.drainDone = false ∧ drainTick s = s ∨ s.drainDone = true ∧ ((drainTick s).seqState = .settle ∨ (drainTick s).seqState = .idle) := by
  unfold drainTick
  cases hd : s.drainDone
  · exact .inl ⟨rfl, rfl⟩
  · exact .inr ⟨rfl, advanceOver_seqState _ _⟩

/-- A received byte runs `rxByte`, or nothing under an unknown label. -/
theorem exec_received {b : Byte} {label : BitVec 2} {synced : Bool} {i : Instr} (h : byteInstr (.rxb label synced) b = some i) (s : State) :
    ∃ b', exec i s = .next (rxByte b' s) := by
  unfold byteInstr at h
  simp only [decode] at h
  cases hx : decodeRxb label synced b with
  | error => rw [hx] at h; cases h
  | ok j =>
    rw [hx] at h
    cases h
    unfold decodeRxb at hx
    split at hx
    · cases hx
    · split_ifs at hx <;> (cases hx; exact ⟨_, rfl⟩)

end Sys2Proof.Machine
end

