-- ==== Sys2Proof/Tests/Slice0.lean ====
section
/-!
SUPPORT. Tests: what WellFormed refuses, the decoding of every constructor from words written out from 30_encoding.md, single
steps with the results of 95_test_vectors.md, and for every obligation with hypotheses a concrete case that meets them.
-/
namespace Sys2Proof.Tests
open Sys2Proof
open Sys2Proof.Machine

/-! ## Helpers -/

/-- The next state, if the outcome is one. -/
def next? : Host.Outcome State Fault Refusal → Option State
  | .next s => some s
  | .fault _ => none
  | .refused _ => none

/-- The instruction and the bytes after it, if the decoder gives one. -/
def decoded? (st : Stream) (bs : List Byte) : Option (Instr × List Byte) := (decode st bs).toOption

/-- The frame of vector V1. -/
def frameA : Vector Byte 13 := #v[4, 4, 4, 4, 8, 8, 8, 8, 0, 1, 0, 0, 0]
/-- The frame B of vector RX-10. -/
def frameB : Vector Byte 13 := #v[1, 2, 4, 8, 8, 4, 2, 1, 0xF0, 0, 0xAA, 0xBB, 0xCC]
/-- The frame of vector DEC-2. -/
def frameDec2 : Vector Byte 13 := #v[1, 2, 4, 8, 8, 4, 2, 1, 0xFF, 0, 9, 9, 9]
/-- The frame of vector DEC-3. -/
def frameDec3 : Vector Byte 13 := #v[3, 0, 5, 0xFF, 0x10, 7, 0x0C, 0x64, 0xA5, 0x80, 0, 0, 0]
/-- The first frame of vector RX-8, with the marker of label top at byte 8. -/
def frameMarked : Vector Byte 13 := #v[4, 4, 4, 4, 8, 8, 8, 8, 0x62, 1, 0, 0, 0]

/-- After reset with label bottom. -/
def bottom : State := { State.reset with cfgLabel := 0b01 }
/-- After reset with an unknown label. -/
def unusable : State := { State.reset with cfgLabel := 0b11, cfgFault := true, dtr := false, dsr := false }
/-- A candidate of `n` bytes received, the first 13 of them those of `f`. -/
def receiving (n : BitVec 4) (f : Vector Byte 13) (s : State) : State := { s with rxSynced := true, rxCnt := n, rxBuf := f }
/-- A request of `n` characters being run, at character `i`, in a state of the sequencer at a value of `TIMER`. -/
def running (st : SeqState) (timer : BitVec 9) (i n : BitVec 3) (cs : Vector Byte 4) : State :=
  { State.reset with seqState := st, timer := timer, idx := i, curLen := n, curChars := cs }
/-- The request "1" of vector SEQ-1. -/
def chars1 : Vector Byte 4 := #v[0x31, 0, 0, 0]
/-- The request "3x21" of vector V2. -/
def charsV2 : Vector Byte 4 := #v[0x33, 0x78, 0x32, 0x31]
/-- The request "xxxx" of vector SEQ-2. -/
def reqSkips : Request := { len := 4, chars := #v[0x78, 0x78, 0x78, 0x78] }
/-- The request "3x21" of vector V2. -/
def reqV2 : Request := { len := 4, chars := charsV2 }

/-! ## WellFormed refuses what is ill formed -/

theorem test_skipinv_digit_refused : Instr.wellFormed (.skipinv 0x33) = false := by decide
theorem test_skipinv_sentinel_refused : Instr.wellFormed (.skipinv 0x78) = false := by decide
theorem test_ws4General_complement_refused : Instr.wellFormed (.ws4General 0x10 0xEE) = false := by decide
theorem test_ws4General_specific_row_refused : Instr.wellFormed (.ws4General 0x0F 0xF0) = false := by decide
theorem test_ws4General_unreachable_command_refused : Instr.wellFormed (.ws4General 0x15 0xEA) = false := by decide
theorem test_cmdint_zero_refused : Instr.wellFormed (.cmdint 0 3) = false := by decide
theorem test_cmdint_ten_refused : Instr.wellFormed (.cmdint 10 3) = false := by decide
theorem test_switchcmd_length_five_refused : Instr.wellFormed (.switchcmd { len := 5, chars := charsV2 }) = false := by decide
theorem test_wellFormed_accepts :
    ([.skipinv 0x30, .ws4General 0x10 0xEF, .ws4General 0x14 0xEB, .cmdint 1 0, .cmdint 9 3, .switchcmd reqV2] : List Instr).all
      Instr.wellFormed = true := by decide

/-! ## Decoding, from the tables of 30_encoding.md R82, R84 to R88 -/

theorem test_decode_received_bytes :
    decoded? (.rxb 0b10 false) [0x62] = some (.rxMarkerTop, []) ∧ decoded? (.rxb 0b01 true) [0x61] = some (.rxMarkerBottom, []) ∧
    decoded? (.rxb 0b10 true) [0x61, 5] = some (.rxDataSynced 0x61, [5]) ∧
    decoded? (.rxb 0b01 false) [0x62] = some (.rxDataUnsynced 0x62, []) ∧
    decoded? (.rxb 0b11 true) [0x62] = none ∧ decoded? (.rxb 0b10 true) [] = none := by decide

theorem test_decode_request_digits :
    decoded? .rqc [0x31] = some (.route1, []) ∧ decoded? .rqc [0x32] = some (.route2, []) ∧
    decoded? .rqc [0x33] = some (.route3, []) ∧ decoded? .rqc [0x34] = some (.route4, []) ∧
    decoded? .rqc [0x35] = some (.route5, []) ∧ decoded? .rqc [0x36] = some (.route6, []) ∧
    decoded? .rqc [0x37] = some (.route7, []) ∧ decoded? .rqc [0x38] = some (.route8, []) := by decide

theorem test_decode_other_request_characters :
    decoded? .rqc [0x39] = some (.route9, []) ∧ decoded? .rqc [0x78] = some (.skip, []) ∧
    decoded? .rqc [0x30] = some (.skipinv 0x30, []) ∧ decoded? .rqc [0x3A] = some (.skipinv 0x3A, []) ∧
    decoded? .rqc [0x58] = some (.skipinv 0x58, []) := by decide

theorem test_decode_wire_steps_outputs_1_2 :
    decoded? .ws4 [0x00, 0xFF, 0xD5, 0x7B] = some (.ws4Out1In1, []) ∧ decoded? .ws4 [0x01, 0xFE, 0xD5, 0x7B] = some (.ws4Out1In2, []) ∧
    decoded? .ws4 [0x02, 0xFD, 0xD5, 0x7B] = some (.ws4Out1In3, []) ∧ decoded? .ws4 [0x03, 0xFC, 0xD5, 0x7B] = some (.ws4Out1In4, []) ∧
    decoded? .ws4 [0x04, 0xFB, 0xD5, 0x7B] = some (.ws4Out2In1, []) ∧ decoded? .ws4 [0x05, 0xFA, 0xD5, 0x7B] = some (.ws4Out2In2, []) ∧
    decoded? .ws4 [0x06, 0xF9, 0xD5, 0x7B] = some (.ws4Out2In3, []) ∧ decoded? .ws4 [0x07, 0xF8, 0xD5, 0x7B] = some (.ws4Out2In4, []) := by
  decide

theorem test_decode_wire_steps_outputs_3_4 :
    decoded? .ws4 [0x08, 0xF7, 0xD5, 0x7B] = some (.ws4Out3In1, []) ∧ decoded? .ws4 [0x09, 0xF6, 0xD5, 0x7B] = some (.ws4Out3In2, []) ∧
    decoded? .ws4 [0x0A, 0xF5, 0xD5, 0x7B] = some (.ws4Out3In3, []) ∧ decoded? .ws4 [0x0B, 0xF4, 0xD5, 0x7B] = some (.ws4Out3In4, []) ∧
    decoded? .ws4 [0x0C, 0xF3, 0xD5, 0x7B] = some (.ws4Out4In1, []) ∧ decoded? .ws4 [0x0D, 0xF2, 0xD5, 0x7B] = some (.ws4Out4In2, []) ∧
    decoded? .ws4 [0x0E, 0xF1, 0xD5, 0x7B] = some (.ws4Out4In3, []) ∧ decoded? .ws4 [0x0F, 0xF0, 0xD5, 0x7B] = some (.ws4Out4In4, []) := by
  decide

theorem test_decode_general_wire_step :
    decoded? .ws4 [0x14, 0xEB, 0xD5, 0x7B, 1] = some (.ws4General 0x14 0xEB, [1]) ∧
    decoded? .ws4 [0x02, 0xFC, 0xD5, 0x7B] = some (.ws4General 0x02 0xFC, []) ∧
    decoded? .ws4 [0x02, 0xFD, 0x7B, 0xD5] = none ∧ decoded? .ws4 [0x02, 0xFD, 0xD5] = none := by decide

theorem test_decode_status_frame :
    decoded? .sf13 [4, 4, 4, 4, 8, 8, 8, 8, 0, 1, 0, 0, 0, 0x62] = some (.sf13 frameA, [0x62]) ∧
    decoded? .sf13 [4, 4, 4, 4, 8, 8, 8, 8, 0, 1, 0, 0] = none := by decide

theorem test_decode_table_words :
    decodeTableWord 8 0x62 = some .rxMarkerTop ∧ decodeTableWord 8 0x61 = some .rxMarkerBottom ∧
    decodeTableWord 8 0x00 = some (.skipinv 0) ∧ decodeTableWord 8 0x39 = some .route9 ∧
    decodeTableWord 32 0x09F6D57B = some .ws4Out3In2 ∧ decodeTableWord 32 0x10EFD57B = some (.ws4General 0x10 0xEF) ∧
    decodeTableWord 104 0x01000808080804040404 = some (.sf13 frameA) ∧ decodeTableWord 24 0 = none := by decide

theorem test_encode :
    encode .skip = some [0x78] ∧ encode .ws4Out3In2 = some [0x09, 0xF6, 0xD5, 0x7B] ∧ encode (.sf13 frameA) = some frameA.toList ∧
    encode .seqStart = none := by decide

/-! ## Single steps: received bytes, status -/

/-- RX-1: the closing marker installs V1. -/
theorem test_marker_installs :
    (next? (exec .rxMarkerTop (receiving 13 frameA State.reset))).map (fun t => (t.stValid, t.stMem, t.stRoute, t.stPower, t.rxCnt)) =
      some (true, #v[3, 3, 3, 3], #v[4, 4, 4, 4], true, 0) := by decide

/-- RX-3: a candidate of 14 is dropped. -/
theorem test_marker_drops_long :
    (next? (exec .rxMarkerTop (receiving 14 frameA State.reset))).map (fun t => (t.stValid, t.rxSynced, t.rxCnt)) =
      some (false, true, 0) := by decide

/-- RX-12: under label bottom `61` closes, and a power byte of `62` is power on. -/
theorem test_marker_bottom_installs :
    (next? (exec .rxMarkerBottom (receiving 13 #v[4, 4, 4, 4, 8, 8, 8, 8, 0, 0x62, 0, 0, 0] bottom))).map
      (fun t => (t.stValid, t.stPower)) = some (true, true) := by decide

/-- RX-2: a candidate of 12 is dropped. -/
theorem test_marker_bottom_drops_short :
    (next? (exec .rxMarkerBottom (receiving 12 frameA bottom))).map (fun t => (t.stValid, t.rxCnt)) = some (false, 0) := by decide

/-- RX-9: under label top `61` is data. -/
theorem test_data_stored :
    (next? (exec (.rxDataSynced 0x61) (receiving 8 frameA State.reset))).map (fun t => (t.rxCnt, t.rxBuf)) =
      some (9, #v[4, 4, 4, 4, 8, 8, 8, 8, 0x61, 1, 0, 0, 0]) := by decide

/-- RX-7: the count saturates at 14 and the buffer stays. -/
theorem test_data_saturates :
    (next? (exec (.rxDataSynced 7) (receiving 14 frameA State.reset))).map (fun t => (t.rxCnt, t.rxBuf)) = some (14, frameA) := by
  decide

/-- RX-5: data before the first marker. -/
theorem test_data_unsynced : next? (exec (.rxDataUnsynced 4) State.reset) = some State.reset := by decide

/-- V1 through the whole receive path. -/
theorem test_sf13 :
    (next? (exec (.sf13 frameA) State.reset)).map (fun t => (t.stValid, t.stMem, t.stRoute, t.stIn, t.stPower)) =
      some (true, #v[3, 3, 3, 3], #v[4, 4, 4, 4], #v[false, false, false, false], true) := by decide

/-- RX-8: a marker inside the frame splits it. -/
theorem test_sf13_split :
    (next? (exec (.sf13 frameMarked) State.reset)).map (fun t => (t.stValid, t.rxSynced, t.rxCnt)) = some (false, true, 0) := by
  decide

/-- V3. -/
theorem test_getPortNumber :
    ([8, 4, 0, 3, 5, 255] : List Byte).map (fun c => (next? (exec (.getPortNumber c) State.reset)).map (·.outs)) =
      ([4, 3, 0, 3, 5, 255] : List Byte).map (fun r => some [Output.byte r]) := by decide

/-- V4, positions 7 to 0 of `A5`. -/
theorem test_isAvailable :
    ([7, 6, 5, 4, 3, 2, 1, 0] : List (BitVec 3)).map (fun p => (next? (exec (.isAvailable 0xA5 p) State.reset)).map (·.outs)) =
      [true, false, true, false, false, true, false, true].map (fun r => some [Output.bit r]) := by decide

/-- DEC-3. -/
theorem test_decode_frame :
    (next? (exec (.decodeFn frameDec3) State.reset)).map (·.outs) = some [.decoded {
      mem := #v[3, 0, 5, 255], route := #v[16, 7, 12, 100], inp := #v[true, false, true, false],
      out := #v[false, true, false, true], power := true }] := by decide

/-- DEC-4: two outputs. -/
theorem test_decode_frame_two_outputs :
    (next? (exec (.decodeFn frameDec2) { State.reset with cfgOut4 := false })).map (·.outs) = some [.decoded {
      mem := #v[1, 2, 0, 0], route := #v[4, 3, 0, 0], inp := #v[true, true, true, true],
      out := #v[false, false, false, false], power := false }] := by decide

/-- The install of status B (RX-10). -/
theorem test_install :
    (next? (exec (.install (decodeFrame true frameB)) State.reset)).map (fun t => (t.stValid, t.stMem, t.stRoute, t.stIn, t.stPower)) =
      some (true, #v[1, 2, 3, 4], #v[4, 3, 2, 1], #v[true, true, true, true], false) := by decide

/-- HOST-1. -/
theorem test_getstatus_empty : (next? (exec .getstatus State.reset)).map (·.outs) = some [.status none] := by decide

/-- DEC-4 as read by the host: two members, no output status. -/
theorem test_getstatus_two_outputs :
    (next? (exec .getstatus (installStatus (decodeFrame false frameDec2) { State.reset with cfgOut4 := false }))).map (·.outs) =
      some [.status (some { memory := [1, 2], route := [4, 3], inputStatus := #v[true, true, true, true], outputStatus := none
                            power := false })] := by decide

/-! ## Single steps: the encoder -/

/-- ENC-1. -/
theorem test_parse_digits :
    ([0x31, 0x34, 0x39] : List Byte).map (fun c => (next? (exec (.parse c) State.reset)).map (·.outs)) =
      ([1, 4, 9] : List Byte).map (fun d => some [Output.digit (some d)]) := by decide

/-- ENC-2. -/
theorem test_parse_fails :
    ([0x30, 0x78, 0x58, 0x3A, 0x2F, 0x20, 0, 0xFF, 0xB1] : List Byte).all
      (fun c => (next? (exec (.parse c) State.reset)).map (·.outs) == some [Output.digit none]) = true := by decide

/-- ENC-3. -/
theorem test_cmdint :
    ([(1, 0), (4, 0), (1, 1), (4, 3)] : List (BitVec 4 × BitVec 2)).map
      (fun p => (next? (exec (.cmdint p.1 p.2) State.reset)).map (·.outs)) =
      ([0, 3, 4, 15] : List Byte).map (fun r => some [Output.byte r]) := by decide

/-- ENC-4. -/
theorem test_complement :
    ([0, 0x0F, 0x14, 0x80, 0xFF] : List Byte).map (fun v => (next? (exec (.complement v) State.reset)).map (·.outs)) =
      ([0xFF, 0xF0, 0xEB, 0x7F, 0] : List Byte).map (fun r => some [Output.byte r]) := by decide

/-- ENC-5. -/
theorem test_encode_steps :
    ([(0x31, 0), (0x33, 0), (0x32, 2), (0x31, 3), (0x34, 3)] : List (Byte × BitVec 2)).map
      (fun p => (next? (exec (.encodeFn p.1 p.2) State.reset)).map (·.outs)) =
      ([#v[0, 0xFF, 0xD5, 0x7B], #v[2, 0xFD, 0xD5, 0x7B], #v[9, 0xF6, 0xD5, 0x7B], #v[0x0C, 0xF3, 0xD5, 0x7B],
        #v[0x0F, 0xF0, 0xD5, 0x7B]] : List (Vector Byte 4)).map (fun w => some [Output.step (some w)]) := by decide

/-- ENC-6, ENC-7. -/
theorem test_encode_corners :
    ([(0x78, 1), (0x30, 0), (0x35, 0), (0x39, 3)] : List (Byte × BitVec 2)).map
      (fun p => (next? (exec (.encodeFn p.1 p.2) State.reset)).map (·.outs)) =
      ([none, none, some #v[4, 0xFB, 0xD5, 0x7B], some #v[0x14, 0xEB, 0xD5, 0x7B]] : List (Option (Vector Byte 4))).map
        (fun w => some [Output.step w]) := by decide

/-- The sixteen rows of 30_encoding.md R85: `WIRE[0]` of each. -/
theorem test_wire_steps :
    [Instr.ws4Out1In1, .ws4Out1In2, .ws4Out1In3, .ws4Out1In4, .ws4Out2In1, .ws4Out2In2, .ws4Out2In3, .ws4Out2In4,
      .ws4Out3In1, .ws4Out3In2, .ws4Out3In3, .ws4Out3In4, .ws4Out4In1, .ws4Out4In2, .ws4Out4In3, .ws4Out4In4].map
      (fun i => (next? (exec i State.reset)).map (·.wire[0])) =
      ([0, 1, 2, 3, 4, 5, 6, 7, 8, 9, 10, 11, 12, 13, 14, 15] : List Byte).map some := by decide

/-- SEQ-13: the out-of-domain step. -/
theorem test_wire_step_general :
    (next? (exec (.ws4General 0x10 0xEF) State.reset)).map (·.wire) = some #v[0x10, 0xEF, 0xD5, 0x7B] := by decide

/-! ## Single steps: the sequencer -/

/-- SEQ-2. -/
theorem test_skip :
    (next? (exec .skip (running .idle 0 0 4 reqSkips.chars))).map (·.idx) = some 1 := by decide

/-- SEQ-4, the character `58`. -/
theorem test_skipinv :
    (next? (exec (.skipinv 0x58) (running .idle 0 2 4 #v[0x30, 0x3F, 0x58, 0x20]))).map (·.idx) = some 3 := by decide

/-- A digit that does not stand at the pointer is put there; at `IDX = 1`, the settle delay of '2' (log 14). -/
theorem test_route_places_character :
    (next? (exec .route2 (running .idle 9 1 4 charsV2))).map (fun t => (t.seqState, t.timer, t.curChars)) =
      some (.settle, 0, #v[0x33, 0x32, 0x32, 0x31]) := by decide

/-- Each digit at the pointer starts its settle delay (43_command_sequencer.md R178). -/
theorem test_routes :
    [(Instr.route1, 0x31), (.route2, 0x32), (.route3, 0x33), (.route4, 0x34), (.route5, 0x35), (.route6, 0x36), (.route7, 0x37),
      (.route8, 0x38), (.route9, 0x39)].all
      (fun p => (next? (exec p.1 (running .idle 17 2 3 #v[0, 0, p.2, 0]))).map (fun t => (t.seqState, t.timer, t.idx)) ==
        some (.settle, 0, 2)) = true := by decide

/-- HOST-4 and an accepted request. -/
theorem test_switchcmd :
    (next? (exec (.switchcmd { len := 5, chars := charsV2 }) State.reset)).map (fun t => (t.q, t.outs)) =
      some ([], [.reqAccept false]) ∧
    (next? (exec (.switchcmd reqV2) State.reset)).map (fun t => (t.q, t.outs)) = some ([reqV2], [.reqAccept true]) := by decide

/-- SEQ-8: the third request on a queue of two. -/
theorem test_switchcmd_full :
    (next? (exec (.switchcmd reqV2) { State.reset with qDepth := some 2, q := [reqSkips, reqSkips] })).map
      (fun t => (t.q, t.errQfull, t.outs)) = some ([reqSkips, reqSkips], true, [.log 3, .reqAccept false]) := by decide

/-- RST-1. -/
theorem test_reset_top :
    (next? (exec (.reset { label := 0b10, in4 := true, out4 := true }) unusable)).map
      (fun t => (t.cfgFault, [t.rts, t.dtr, t.dsr], t.stValid, t.outs)) = some (false, [false, true, true], false, []) := by decide

/-- ERR-1. -/
theorem test_reset_unknown_label :
    (next? (exec (.reset { label := 0b11, in4 := true, out4 := true }) State.reset)).map
      (fun t => (t.cfgFault, t.rts, t.dtr, t.dsr, t.outs)) = some (true, false, false, false, [.log 4]) := by decide

/-- `State.reset` is the reset operation at its straps, with zero for what Reset leaves unspecified. -/
theorem test_reset_state : resetWith Straps.default Unspecified.zero State.reset = State.reset := by decide

/-- SEQ-1, tick 0. -/
theorem test_seqStart :
    (next? (exec .seqStart { State.reset with q := [{ len := 1, chars := chars1 }] })).map
      (fun t => (t.q, t.seqState, t.timer, t.idx, t.curLen)) = some ([], .settle, 0, 0, 1) := by decide

/-- SEQ-2, tick 0. -/
theorem test_seqStart_skips :
    (next? (exec .seqStart { State.reset with q := [reqSkips] })).map (fun t => (t.q, t.seqState, t.idx, t.outs)) =
      some ([], .idle, 4, []) := by decide

/-- V2 from index 1: the skipped character costs nothing. -/
theorem test_seqAdvance :
    (next? (exec .seqAdvance (running .drain 250 1 4 charsV2))).map (fun t => (t.seqState, t.idx, t.timer)) = some (.settle, 2, 0) := by
  decide

/-- SEQ-1, tick 500 and the tick before. -/
theorem test_seqSettle :
    (next? (exec .seqSettle (running .settle 499 0 1 chars1))).map (fun t => (t.seqState, t.timer, t.wire, t.outs)) =
      some (.xmit, 0, #v[0, 0xFF, 0xD5, 0x7B], [.txWrite 0 true]) ∧
    (next? (exec .seqSettle (running .settle 498 0 1 chars1))).map (fun t => (t.seqState, t.timer, t.outs)) =
      some (.settle, 499, []) := by decide

/-- SEQ-6, tick 500: the refused write. -/
theorem test_seqBeginXmit_refused :
    (next? (exec .seqBeginXmit { running .settle 500 0 2 #v[0x31, 0x78, 0, 0] with txFail := true })).map
      (fun t => (t.seqState, t.errWrite, t.outs)) = some (.xmit, true, [.txWrite 0 false, .log 1]) := by decide

/-- SEQ-1, ticks 550 and 750. -/
theorem test_seqXmit :
    (next? (exec .seqXmit { running .xmit 49 0 1 chars1 with wire := #v[0, 0xFF, 0xD5, 0x7B] })).map (fun t => (t.timer, t.outs)) =
      some (50, [.txWrite 0xFF true]) ∧
    (next? (exec .seqXmit (running .xmit 249 0 1 chars1))).map (fun t => (t.seqState, t.outs)) = some (.drain, [.drainReq]) := by
  decide

/-- SEQ-6, ticks 751 and 761. -/
theorem test_seqDrain :
    (next? (exec .seqDrain (running .drain 250 0 2 #v[0x31, 0x78, 0, 0]))).map (fun t => (t.seqState, t.idx)) = some (.drain, 0) ∧
    (next? (exec .seqDrain { running .drain 250 0 2 #v[0x31, 0x78, 0, 0] with drainDone := true })).map
      (fun t => (t.seqState, t.idx, t.errDrain, t.outs)) = some (.idle, 2, true, [.log 2]) := by decide

/-- SEQ-5, tick 751: the step ends and the next request starts in the same tick. -/
theorem test_seqEndStep :
    (next? (exec .seqEndStep { running .drain 250 0 2 #v[0x32, 0x78, 0, 0] with
      drainDone := true, drainOk := true, q := [{ len := 2, chars := #v[0x78, 0x31, 0, 0] }] })).map
      (fun t => (t.seqState, t.idx, t.timer, t.q)) = some (.settle, 1, 0, []) := by decide

/-- HOST-3: the read is answered before the install, which is left for the next step. -/
theorem test_step_status_before_install :
    (next? (step { receiving 13 frameA State.reset with inputs := [.edge { getStatus := true, rx := some 0x62 }] })).map
      (fun t => (t.outs, t.stValid, t.inputs)) = some ([.status none], false, [.edge { rx := some 0x62 }]) := by decide

/-- SEQ-10: an answer on the clock edge of tick 750 is ignored. -/
theorem test_step_early_answer_ignored :
    (next? (step { running .xmit 249 0 1 chars1 with inputs := [.edge { drainDone := some true, tick := true }] })).map
      (fun t => (t.drainDone, t.seqState, t.inputs)) = some (false, .xmit, [.edge { tick := true }]) := by decide

/-- A placed word is what the next step runs: a marker, a request character, a wire step, a frame. -/
theorem test_step_runs_placed_word :
    (next? (step (State.reset.withFetchWord 8 0x61))).map (·.rxSynced) = some true ∧
    (next? (step (State.reset.withFetchWord 8 0x33))).map (·.seqState) = some .settle ∧
    (next? (step (State.reset.withFetchWord 32 0x06F9D57B))).map (·.wire) = some #v[6, 0xF9, 0xD5, 0x7B] ∧
    (next? (step (State.reset.withFetchWord 104 0x01000808080804040404))).map (·.stMem) = some #v[3, 3, 3, 3] := by decide

/-! ## A case that meets the hypotheses of each obligation -/

theorem witness_EncodeThenDecode :
    ([(.rxb 0b10 false, .rxMarkerTop), (.rxb 0b01 true, .rxMarkerBottom), (.rxb 0b10 true, .rxDataSynced 0x61),
      (.rxb 0b01 false, .rxDataUnsynced 0x62), (.rqc, .skip), (.rqc, .route9), (.rqc, .skipinv 0x30), (.ws4, .ws4Out4In4),
      (.ws4, .ws4General 0x10 0xEF), (.ws4, .ws4General 0x14 0xEB), (.sf13, .sf13 frameA)] : List (Stream × Instr)).all
      (fun p => p.2.wellFormed && p.2.belongsTo p.1) = true := by decide

theorem witness_DecodedInstruction :
    decode (.rxb 0b10 true) [0x62, 7] = .ok (.rxMarkerTop, [7]) ∧ decode .rqc [0x30] = .ok (.skipinv 0x30, []) ∧
    decode .ws4 [0x02, 0xFC, 0xD5, 0x7B] = .ok (.ws4General 0x02 0xFC, []) := ⟨rfl, rfl, rfl⟩

theorem witness_TableWords_general :
    16 ≤ (0x10 : Byte).toNat ∧ (0x0F : Byte).toNat + (0xF1 : Byte).toNat ≠ 255 ∧ (0x10 : Byte).toNat + (0xEF : Byte).toNat = 255 := by decide

theorem witness_RequestCharacterClasses :
    decode .rqc [0x78] = .ok (.skip, []) ∧ decode .rqc [0x30] = .ok (.skipinv 0x30, []) ∧ decode .rqc [0x31] = .ok (.route1, []) ∧
    decode .rqc [0x39] = .ok (.route9, []) ∧ decode .rqc [0x3A] = .ok (.skipinv 0x3A, []) := ⟨rfl, rfl, rfl, rfl, rfl⟩

/-- One case of every event of a clock edge, and a tick in each state of the sequencer. -/
theorem witness_StepRunsFetched_events :
    let u (e : Edge) (s : State) : State := { s with inputs := [.edge e] }
    ((u { reset := some Straps.default } State.reset).inputs = [.edge { reset := some Straps.default }] ∧
      nextEvent { reset := some Straps.default } = some (.reset Straps.default, {})) ∧
    nextEvent { getStatus := true } = some (.getStatus, {}) ∧ nextEvent { switchCmd := some reqV2 } = some (.switchCmd reqV2, {}) ∧
    nextEvent { drainDone := some false } = some (.drainDone false, {}) ∧ nextEvent { tick := true } = some (.tick, {}) ∧
    (u { tick := true } State.reset).seqState = .idle ∧ (u { tick := true } (running .settle 0 0 1 chars1)).seqState = .settle ∧
    (u { tick := true } (running .xmit 0 0 1 chars1)).seqState = .xmit ∧
    (u { tick := true } (running .drain 250 0 1 chars1)).seqState = .drain := by decide

theorem witness_StepRunsFetched_byte :
    nextEvent { rx := some 0x61 } = some (.rxByte 0x61, {}) ∧
    decode (.rxb State.reset.cfgLabel State.reset.rxSynced) [0x61] = .ok (.rxDataUnsynced 0x61, []) ∧
    marker unusable.cfgLabel = none := ⟨rfl, rfl, rfl⟩

theorem witness_StepRunsFetched_op :
    ({ State.reset with inputs := [.op .seqStart] } : State).inputs = [.op .seqStart] := rfl

theorem witness_StepRunsFetched_char :
    (running .idle 0 3 4 charsV2).idx.toNat < (running .idle 0 3 4 charsV2).curLen.toNat ∧
    (running .idle 0 3 4 charsV2).curChars[(running .idle 0 3 4 charsV2).idx.toNat]? = some 0x31 ∧
    decode .rqc [0x31] = .ok (.route1, []) := ⟨by decide, by decide, rfl⟩

theorem witness_StepRunsFetched_word : decodeTableWord 32 0x0FF0D57B = some .ws4Out4In4 := by decide

theorem witness_CoincidingEvents :
    nextEvent { reset := some Straps.default, getStatus := true } = some (.reset Straps.default, {}) ∧
    nextEvent { getStatus := true, rx := some 1 } = some (.getStatus, { rx := some 1 }) ∧
    nextEvent { rx := some 1, switchCmd := some reqV2 } = some (.rxByte 1, { switchCmd := some reqV2 }) ∧
    nextEvent { switchCmd := some reqV2, drainDone := some true } = some (.switchCmd reqV2, { drainDone := some true }) ∧
    nextEvent { drainDone := some true, tick := true } = some (.drainDone true, { tick := true }) ∧ nextEvent {} = none := by decide

theorem witness_StatusReadPrecedes :
    ([(0x62, State.reset), (0x61, bottom)] : List (Byte × State)).all (fun p =>
      let s := { receiving 13 frameA p.2 with inputs := [.edge { getStatus := true, rx := some p.1 }] }
      decide (s.cfgFault = false ∧ marker s.cfgLabel = some p.1 ∧ s.rxSynced = true ∧ s.rxCnt = 13 ∧
        s.inputs = [.edge { getStatus := true, rx := some p.1 }])) = true := by decide

theorem witness_MarkerCloses :
    ([12, 13, 14] : List (BitVec 4)).map (fun n => decide ((receiving n frameA State.reset).rxSynced = true ∧
      (receiving n frameA State.reset).rxCnt.toNat = 13)) = [false, true, false] ∧
    State.reset.cfgFault = false ∧ State.reset.cfgLabel = 0b10 ∧ bottom.cfgFault = false ∧ bottom.cfgLabel = 0b01 := by decide

theorem witness_SynchronisedData :
    ([0, 12, 13, 14, 15] : List (BitVec 4)).all (fun n => decide ((receiving n frameA State.reset).rxSynced = true ∧
      (receiving n frameA State.reset).cfgFault = false ∧ marker (receiving n frameA State.reset).cfgLabel = some 0x62)) = true ∧
    (0x61 : Byte) ≠ 0x62 := by decide

theorem witness_UnsynchronisedData :
    bottom.cfgFault = false ∧ marker bottom.cfgLabel = some 0x61 ∧ (0x62 : Byte) ≠ 0x61 ∧ bottom.rxSynced = false := by decide

theorem witness_StatusFrameIsInstalled :
    State.reset.cfgFault = false ∧ marker State.reset.cfgLabel = some 0x62 ∧ ∀ k : Fin 13, frameB[k] ≠ 0x62 := by decide

theorem witness_FrameHoldingMarker :
    State.reset.cfgFault = false ∧ marker State.reset.cfgLabel = some 0x62 ∧ frameMarked[(8 : Fin 13)] = 0x62 := by decide

theorem witness_DecodedRecord_configurations :
    State.reset.cfgOut4 = true ∧ ({ State.reset with cfgOut4 := false } : State).cfgOut4 = false := by decide

theorem witness_Install_and_StatusRead :
    State.reset.cfgFault = false ∧ State.reset.stValid = false ∧ unusable.cfgFault = true ∧
    (installStatus (decodeFrame true frameA) State.reset).stValid = true ∧
    (installStatus (decodeFrame true frameA) State.reset).cfgFault = false ∧
    (statusPorts (installStatus (decodeFrame true frameA) State.reset)).valid = true ∧ (statusPorts State.reset).valid = false := by
  decide

theorem witness_InDomainSteps :
    exec (.encodeFn 0x34 3) State.reset = .next (emit (.step (some #v[0x0F, 0xF0, 0xD5, 0x7B])) State.reset) ∧
    exec (.encodeFn 0x31 0) State.reset = .next (emit (.step (some #v[0x00, 0xFF, 0xD5, 0x7B])) State.reset) := ⟨rfl, rfl⟩

theorem witness_SwitchRequest :
    unusable.cfgFault = true ∧ (4 : Nat) < (5 : BitVec 3).toNat ∧ State.reset.cfgFault = false ∧ reqV2.len.toNat ≤ 4 ∧
    ({ State.reset with qDepth := some 1, q := [reqSkips] } : State).qDepth = some 1 ∧
    1 ≤ ({ State.reset with qDepth := some 1, q := [reqSkips] } : State).q.length ∧
    ({ State.reset with qDepth := some 1 } : State).q.length < 1 ∧ State.reset.qDepth = none := by decide

theorem witness_StartRunsHead :
    let r : Request := { len := 4, chars := #v[0x78, 0x30, 0x78, 0x39] }
    State.reset.cfgFault = false ∧ State.reset.seqState = .idle ∧ ({ State.reset with q := [r] } : State).q = r :: [] ∧
      r.len.toNat ≤ 4 ∧ (3 : Fin 4).val < r.len.toNat ∧
      (∀ k : Fin 4, k < 3 → parseDigit r.chars[k] = none) ∧ (parseDigit r.chars[(3 : Fin 4)]).isSome = true := by decide

/-- A head request of skipped characters only is passed over within the same tick to the one behind it. -/
theorem test_seqStart_to_next_request :
    (next? (exec .seqStart { State.reset with q := [reqSkips, { len := 2, chars := #v[0x78, 0x31, 0, 0] }, reqV2] })).map
      (fun t => (t.seqState, t.idx, t.curLen, t.q)) = some (.settle, 1, 2, [reqV2]) := by decide

theorem witness_QuiescentTick :
    ([true, false] : List Bool).all (fun fails => decide (quiescent { State.reset with inputs := [tickInput fails] })) = true := by decide

theorem witness_AllSkipRequests :
    ∀ r ∈ ({ State.reset with q := [reqSkips, { len := 0, chars := charsV2 }] } : State).q,
      r.len.toNat ≤ 4 ∧ ∀ k : Fin 4, k.val < r.len.toNat → parseDigit r.chars[k] = none := by decide

theorem witness_SkippedCharacter :
    (running .idle 0 1 4 charsV2).cfgFault = false ∧ (running .idle 0 1 4 charsV2).idx.toNat ≤ 4 ∧
    (running .idle 0 4 4 charsV2).idx.toNat ≤ 4 := by decide

theorem witness_RouteCharacter :
    let s := running .idle 0 0 1 #v[0x31, 0, 0, 0]
    let u := running .idle 0 3 4 #v[0, 0, 0, 0x39]
    s.cfgFault = false ∧ s.curChars[s.idx.toNat]? = some (BitVec.ofNat 8 (0x31 + (0 : Fin 9).val)) ∧
    u.cfgFault = false ∧ u.curChars[u.idx.toNat]? = some (BitVec.ofNat 8 (0x31 + (8 : Fin 9).val)) := by decide

theorem witness_FetchStops :
    State.reset.curLen.toNat ≤ State.reset.idx.toNat ∧ decodeTableWord 32 0 = none ∧
    step { State.reset with inputs := [.char] } = .fault .strayPointer ∧
    step { State.reset with inputs := [.word 32 0] } = .refused .noEncoding := ⟨by decide, by decide, rfl, rfl⟩

theorem witness_AdvanceStops :
    let s := running .drain 250 1 4 charsV2
    let u := running .drain 250 3 4 charsV2
    s.curLen.toNat ≤ 4 ∧ s.idx.toNat ≤ (2 : Fin 4).val ∧ (2 : Fin 4).val < s.curLen.toNat ∧
      (∀ k : Fin 4, s.idx.toNat ≤ k.val → k < 2 → parseDigit s.curChars[k] = none) ∧
      (parseDigit s.curChars[(2 : Fin 4)]).isSome = true ∧
    u.idx.toNat ≤ (3 : Fin 4).val ∧ (∀ k : Fin 4, u.idx.toNat ≤ k.val → k < 3 → parseDigit u.curChars[k] = none) ∧
      (parseDigit u.curChars[(3 : Fin 4)]).isSome = true := by decide

theorem witness_AdvanceEnds :
    let s := running .drain 250 4 4 charsV2
    let u := running .drain 250 1 2 charsV2
    s.curLen.toNat ≤ 4 ∧ s.idx.toNat ≤ s.curLen.toNat ∧
      (∀ k : Fin 4, s.idx.toNat ≤ k.val → k.val < s.curLen.toNat → parseDigit s.curChars[k] = none) ∧ s.q = [] ∧
    u.idx.toNat ≤ u.curLen.toNat ∧
      (∀ k : Fin 4, u.idx.toNat ≤ k.val → k.val < u.curLen.toNat → parseDigit u.curChars[k] = none) ∧
      ({ u with q := [reqV2] } : State).q = reqV2 :: [] := by decide

theorem witness_AdvanceEndsInSettleOrIdle :
    State.reset.cfgFault = false ∧ State.reset.curLen.toNat ≤ 4 ∧ ∀ r ∈ ({ State.reset with q := [reqV2] } : State).q, r.len.toNat ≤ 4 := by
  decide

theorem witness_Settle :
    (running .settle 0 0 1 chars1).timer.toNat + 1 < 500 ∧ (running .settle 498 0 1 chars1).timer.toNat + 1 < 500 ∧
    (running .settle 0 0 1 chars1).seqState = .settle ∧ (running .settle 0 0 1 chars1).cfgFault = false := by decide

theorem witness_TransmissionBegins :
    let s := running .settle 499 3 4 charsV2
    s.cfgFault = false ∧ s.idx.toNat < s.curLen.toNat ∧ s.curChars[s.idx.toNat]? = some 0x31 ∧ parseDigit 0x31 = some 1 ∧
      s.seqState = .settle ∧ s.timer.toNat = 499 := by decide

theorem witness_WireBytes :
    ([(49, 1), (99, 2), (149, 3)] : List (BitVec 9 × Fin 4)).all (fun p => decide ((running .xmit p.1 0 1 chars1).seqState = .xmit ∧
      1 ≤ p.2.val ∧ (running .xmit p.1 0 1 chars1).timer.toNat + 1 = p.2.val * 50)) = true := by decide

theorem witness_XmitIsSilent :
    ([0, 48, 50, 148, 150, 248] : List (BitVec 9)).all (fun n => decide ((running .xmit n 0 1 chars1).seqState = .xmit ∧
      (running .xmit n 0 1 chars1).timer.toNat + 1 < 250 ∧
      ((running .xmit n 0 1 chars1).timer.toNat + 1) ∉ [50, 100, 150])) = true := by decide

theorem witness_Drain :
    (running .xmit 249 0 1 chars1).timer.toNat = 249 ∧ (running .xmit 250 0 1 chars1).timer.toNat = 250 ∧
    (running .xmit 249 0 1 chars1).seqState = .xmit ∧ (running .drain 250 0 1 chars1).seqState = .drain ∧
    (running .drain 250 0 1 chars1).drainDone = false ∧ (running .drain 250 0 1 chars1).cfgFault = false := by decide

theorem witness_DrainAnswerEndsStep :
    ([true, false] : List Bool).all (fun ok =>
      let s := { running .drain 250 3 4 charsV2 with drainDone := true, drainOk := ok, q := [reqV2] }
      decide (s.seqState = .drain ∧ s.drainDone = true ∧ s.drainOk = ok ∧ s.curLen.toNat ≤ 4 ∧ s.idx.toNat < s.curLen.toNat ∧
        ∀ r ∈ s.q, r.len.toNat ≤ 4)) = true := by decide

theorem witness_DrainAnswerLatched :
    ({ running .drain 250 0 1 chars1 with inputs := [.edge { drainDone := some true }] } : State).seqState = .drain ∧
    unusable.cfgFault = true ∧ State.reset.seqState ≠ .drain := by decide

/-- A settle delay about to begin, with 750 ticks to come at which the PHY refuses every write. -/
def stepBegins : State :=
  { running .settle 0 0 1 chars1 with inputs := (Vector.replicate 750 true).toList.map tickInput ++ [.edge {}] }

theorem witness_RouteStepTimeline :
    stepBegins.cfgFault = false ∧ stepBegins.seqState = .settle ∧ stepBegins.timer = 0 ∧
      stepBegins.idx.toNat < stepBegins.curLen.toNat ∧ stepBegins.curChars[stepBegins.idx.toNat]? = some 0x31 ∧
      parseDigit 0x31 = some 1 ∧ stepBegins.inputs = (Vector.replicate 750 true).toList.map tickInput ++ [.edge {}] := by
  exact ⟨by decide, by decide, by decide, by decide, by decide, by decide, by rw [stepBegins]⟩

theorem witness_UnansweredDrain :
    let s := { running .drain 250 0 1 chars1 with inputs := [true, false].map tickInput ++ [] }
    s.seqState = .drain ∧ s.drainDone = false ∧ s.inputs = [true, false].map tickInput ++ [] := by decide

/-- Every event but `DrainDone` and `Reset`, with a drain answer still to come on the same edge. -/
theorem witness_UnansweredDrain_events :
    nextEvent { getStatus := true, drainDone := some true } = some (.getStatus, { drainDone := some true }) ∧
    nextEvent { rx := some 7 } = some (.rxByte 7, {}) ∧ nextEvent { switchCmd := some reqV2 } = some (.switchCmd reqV2, {}) ∧
    nextEvent { tick := true } = some (.tick, {}) ∧ (running .drain 250 0 1 chars1).seqState = .drain ∧
    (running .drain 250 0 1 chars1).drainDone = false := by decide

/-- An environment of ticks alone: no drain answer, no reset. -/
def onlyTicks (_ : Nat) : Edge := { tick := true }

theorem onlyTicks_timeGoesOn : timeGoesOn onlyTicks := fun n => ⟨n, Nat.le_refl n, rfl⟩

/-- A hanging drain, tick after tick. -/
theorem onlyTicks_afterEdges (n : Nat) : afterEdges onlyTicks n (running .drain 250 0 1 chars1) = some (running .drain 250 0 1 chars1) := by
  induction n with
  | zero => rfl
  | succ n ih => rw [afterEdges, ih]; rfl

theorem witness_HangingDrain :
    timeGoesOn onlyTicks ∧
    (∀ n, afterEdges onlyTicks n (running .drain 250 0 1 chars1) = some (running .drain 250 0 1 chars1)) ∧
    (running .drain 250 0 1 chars1).seqState = .drain ∧ (running .drain 250 0 1 chars1).drainDone = false ∧
    (∀ n, (onlyTicks n).drainDone = none ∧ (onlyTicks n).reset = none) ∧
    ((running .drain 250 0 1 chars1).cfgFault = true → (running .drain 250 0 1 chars1).seqState = .idle) ∧
    heldInDrain onlyTicks (running .drain 250 0 1 chars1) :=
  ⟨onlyTicks_timeGoesOn, onlyTicks_afterEdges, rfl, rfl, fun _ => ⟨rfl, rfl⟩, by decide,
    onlyTicks_timeGoesOn, 0, fun m _ => ⟨_, onlyTicks_afterEdges m, rfl⟩⟩

/-- A run that never goes wrong: `goneWrong` is not true of every run. -/
theorem test_goneWrong_not_always : ¬ goneWrong onlyTicks State.reset := by
  have h0 (n : Nat) : after n State.reset = some State.reset := by
    induction n with
    | zero => rfl
    | succ n ih => exact ih
  have h (n : Nat) : afterEdges onlyTicks n State.reset = some State.reset := by
    induction n with
    | zero => rfl
    | succ n ih => rw [afterEdges, ih]; rfl
  rintro (⟨n, t, ht, he⟩ | ⟨n, t, ht, he⟩ | ⟨-, n, hn⟩)
  · rw [h0 n] at ht; cases ht; revert he; decide
  · rw [h n] at ht; cases ht; revert he; decide
  · obtain ⟨t, ht, hd⟩ := hn n (Nat.le_refl n)
    rw [h n] at ht; cases ht; cases hd

/-- Every input of an edge is handled before the next: a read, a byte, a request and a tick of one edge. -/
theorem test_inputsHandled :
    (inputsHandled { State.reset with
      inputs := [.edge { getStatus := true, rx := some 0x62, switchCmd := some reqV2, drainDone := some true, tick := true }] }).map
      (fun t => (t.inputs, t.rxSynced, t.seqState, t.outs)) = some ([], true, .settle, [.status none, .reqAccept true]) := by decide

theorem witness_Reset_labels :
    Straps.default.label = 0b10 ∧ ({ Straps.default with label := 0b01 } : Straps).label = 0b01 ∧
    ({ Straps.default with label := 0b00 } : Straps).label = 0b00 ∧ ({ Straps.default with label := 0b11 } : Straps).label = 0b11 := by
  decide

theorem witness_UnusableInstance :
    ([.edge { rx := some 0x62 }, tickInput false, .edge { drainDone := some true }, .edge { switchCmd := some reqV2 },
      .edge { getStatus := true }] : List Input).all (fun x => decide (({ unusable with inputs := [x] } : State).cfgFault = true)) = true :=
  by decide

theorem witness_ErrorFlags : ∃ t, exec .seqDrain { running .drain 250 0 1 chars1 with drainDone := true } = .next t ∧ t.errDrain = true :=
  ⟨_, rfl, rfl⟩

theorem witness_OnlyResetClears :
    ∃ t, exec .seqStart { State.reset with errWrite := true, errDrain := true, errQfull := true, stValid := true, q := [reqV2] } = .next t ∧
      t.errWrite = true := ⟨_, rfl, rfl⟩

theorem witness_OnlyResetWritesConfiguration : (∃ t, exec .seqStart State.reset = .next t) ∧ ∃ t, exec (.reset Straps.default) State.reset = .next t :=
  ⟨⟨_, rfl⟩, _, rfl⟩

theorem witness_OnlyReceivedBytesWriteStatus :
    nextEvent { tick := true } = some (.tick, {}) ∧ ∃ t, step { State.reset with inputs := [.edge { tick := true }] } = .next t :=
  ⟨rfl, _, rfl⟩

theorem witness_ReceivedBytesLeaveSequencer :
    nextEvent { rx := some 0x62 } = some (.rxByte 0x62, {}) ∧
    ∃ t, step { receiving 13 frameA State.reset with inputs := [.edge { rx := some 0x62 }] } = .next t ∧ t.stValid = true :=
  ⟨rfl, _, rfl, rfl⟩

theorem witness_AtMostOneWrite :
    ∃ t, step { running .settle 499 0 1 chars1 with inputs := [tickInput true] } = .next t ∧
      t.outs = [.txWrite 0 false, .log 1] := ⟨_, rfl, rfl⟩

theorem witness_EveryReset :
    ([none, some 1] : List (Option Nat)).all (fun d =>
      let s := { running .drain 250 0 1 chars1 with qDepth := d, q := [reqV2, reqV2], inputs := [tickInput true] }
      decide (edgesOnly s ∧ ∀ n ∈ s.qDepth, 0 < n)) = true := by decide

/-- A step under way, after its third write, with a request waiting on a full queue. -/
def midStep : State :=
  { running .xmit 120 0 1 chars1 with
    wire := #v[0, 0xFF, 0xD5, 0x7B], q := [reqV2], qDepth := some 1
    outs := [.txWrite 0 true, .txWrite 0xFF true, .txWrite 0xD5 false], inputs := [.edge { tick := true, rx := some 7 }] }

theorem witness_EveryStepKeepsInvariant : Inv midStep :=
  ⟨by decide, by decide, by decide, by simp [midStep, queueOk, reqV2], by decide, by decide, by decide⟩

theorem witness_TxStreamStaysWhole :
    txStreamWhole midStep ∧ (∀ x ∈ midStep.inputs, x.noReset = true) ∧ ∃ t, step midStep = .next t :=
  ⟨⟨[], by decide⟩, by decide, _, rfl⟩

end Sys2Proof.Tests
end

section
/-!
PROOFS. The scope (00_scope.md): what a step runs for each input, where it stops, and when a run hangs in `DRAIN`.
-/
namespace Sys2Proof.Machine

variable {s t u : State} {e left : Edge} {ev : Event} {rest : List Input} {env : Nat → Edge}

/-! ## The instruction a step runs -/

/-- The state an event of the edge `e` is handled in: what is left of the edge comes next, and `tx_fail` has the level of `e`. -/
abbrev takeEvent (e left : Edge) (rest : List Input) (s : State) : State :=
  { s with inputs := putBack left rest, txFail := e.txFail }

theorem step_of_eventInstr {i : Instr} (h : s.inputs = .edge e :: rest) (hn : nextEvent e = some (ev, left))
    (hi : eventInstr ev (takeEvent e left rest s) = some i) : step s = exec i (takeEvent e left rest s) := by
  obtain ⟨j, hj, hs⟩ | ⟨hnone, -⟩ := step_of_event h hn
  · cases hi.symm.trans hj
    exact hs
  · cases hi.symm.trans hnone

theorem step_of_no_instr (h : s.inputs = .edge e :: rest) (hn : nextEvent e = some (ev, left))
    (hi : eventInstr ev (takeEvent e left rest s) = none) : step s = .next (eventEffect ev (takeEvent e left rest s)) := by
  obtain ⟨j, hj, -⟩ | ⟨-, hs⟩ := step_of_event h hn
  · cases hi.symm.trans hj
  · exact hs

/-- A tick runs the action of `SEQ_STATE` (43_command_sequencer.md R173). -/
theorem step_of_tick {i : Instr} (h : s.inputs = .edge e :: rest) (hn : nextEvent e = some (.tick, left)) (hi : tickInstr s = i) :
    step s = exec i (takeEvent e left rest s) :=
  step_of_eventInstr h hn (congrArg some hi)

theorem byteInstr_of_decode {st : Stream} {b : Byte} {i : Instr} (h : decode st [b] = .ok (i, [])) : byteInstr st b = some i := by
  simp [byteInstr, h]

/-- Under an unknown label a received byte has no row (40_frame_decoder.md R114). -/
theorem byteInstr_of_no_marker {label : BitVec 2} (h : marker label = none) (synced : Bool) (b : Byte) :
    byteInstr (.rxb label synced) b = none := by
  have hd : decodeRxb label synced b = .error .unknownLabel := by simp [decodeRxb, h]
  simp [byteInstr, decode, hd, Except.map]

theorem step_of_char {c : Byte} (h : s.inputs = .char :: rest) (hc : curChar s = some c) :
    step s = exec (decodeRqc c) { s with inputs := rest } := by
  have hb : byteInstr .rqc c = some (decodeRqc c) := rfl
  simp [step, fetch, h, hc, hb, fetchedOr]

theorem step_of_no_char (h : s.inputs = .char :: rest) (hc : curChar s = none) : step s = .fault .strayPointer := by
  simp [step, fetch, h, hc, fetchedOr]

theorem step_of_word {nbits w : Nat} {i : Instr} (h : s.inputs = .word nbits w :: rest) (hw : decodeTableWord nbits w = some i) :
    step s = exec i { s with inputs := rest } := by
  simp [step, fetch, h, hw, fetchedOr]

theorem step_of_no_word {nbits w : Nat} (h : s.inputs = .word nbits w :: rest) (hw : decodeTableWord nbits w = none) :
    step s = .refused .noEncoding := by
  simp [step, fetch, h, hw, fetchedOr]

theorem step_of_op {i : Instr} (h : s.inputs = .op i :: rest) : step s = exec i { s with inputs := rest } := by
  simp [step, fetch, h]

/-- Everything a step can answer: a next state, or a stop on one of the model's own inputs (log 10, log 18). -/
theorem step_cases (s : State) :
    (∃ t, step s = .next t) ∨
    (∃ rest, s.inputs = .char :: rest ∧ curChar s = none ∧ step s = .fault .strayPointer) ∨
    ∃ rest nbits w, s.inputs = .word nbits w :: rest ∧ decodeTableWord nbits w = none ∧ step s = .refused .noEncoding := by
  have completes {i : Instr} {v : State} (h : step s = exec i v) : ∃ t, step s = .next t := by
    obtain ⟨t, ht, -⟩ := exec_kept i v
    exact ⟨t, h.trans ht⟩
  cases h : s.inputs with
  | nil => exact .inl ⟨s, step_of_no_inputs h⟩
  | cons x rest =>
    cases x with
    | edge e =>
      obtain ⟨t, ht, -⟩ := step_edge h
      exact .inl ⟨t, ht⟩
    | op i => exact .inl (completes (step_of_op h))
    | char =>
      cases hc : curChar s with
      | some c => exact .inl (completes (step_of_char h hc))
      | none => exact .inr (.inl ⟨rest, rfl, rfl, step_of_no_char h hc⟩)
    | word nbits w =>
      cases hw : decodeTableWord nbits w with
      | some i => exact .inl (completes (step_of_word h hw))
      | none => exact .inr (.inr ⟨rest, nbits, w, rfl, hw, step_of_no_word h hw⟩)

/-- Settles O6, clause by clause: one lemma per kind of input. -/
theorem stepRunsFetchedInstruction : Obligations.StepRunsFetchedInstruction := by
  refine ⟨fun s u e left rest ev h hn hu => ?_, fun s rest c i h hlt hc hd => ?_, fun _ _ _ _ _ h hw => step_of_word h hw,
    fun _ _ _ h => step_of_op h⟩
  · subst hu
    refine ⟨?reset, ?getStatus, ?rxByte, ?unknownLabel, ?switchCmd, ?drainDone, ?idle, ?settle, ?xmit, ?drain⟩
    case reset => rintro st rfl; exact step_of_eventInstr h hn rfl
    case getStatus => rintro rfl; exact step_of_eventInstr h hn rfl
    case rxByte => rintro b i rfl hd; exact step_of_eventInstr h hn (byteInstr_of_decode hd)
    case unknownLabel => rintro b rfl hm; exact step_of_no_instr h hn (byteInstr_of_no_marker hm _ b)
    case switchCmd => rintro r rfl; exact step_of_eventInstr h hn rfl
    case drainDone => rintro ok rfl; exact step_of_no_instr h hn rfl
    case idle => rintro rfl hq; exact step_of_tick h hn (by rw [tickInstr, hq])
    case settle => rintro rfl hq; exact step_of_tick h hn (by rw [tickInstr, hq])
    case xmit => rintro rfl hq; exact step_of_tick h hn (by rw [tickInstr, hq])
    case drain => rintro rfl hq; exact step_of_tick h hn (by rw [tickInstr, hq])
  · cases hd
    exact step_of_char h (curChar_eq_some.2 ⟨hlt, hc⟩)

/-- Settles O32: the two stops by name, and by `step_cases` no other. -/
theorem fetchStopsByName : Obligations.FetchStopsByName := by
  intro s
  refine ⟨fun _ h hi => step_of_no_char h (curChar_eq_none hi), fun _ _ _ h hw => step_of_no_word h hw, fun f hf => ?_, fun f hf => ?_⟩
  · obtain ⟨t, ht⟩ | ⟨rest, h, hc, hs⟩ | ⟨rest, nbits, w, h, hw, hs⟩ := step_cases s
    · cases hf.symm.trans ht
    · cases hf.symm.trans hs
      exact ⟨rest, h, hc, rfl⟩
    · cases hf.symm.trans hs
  · obtain ⟨t, ht⟩ | ⟨rest, h, hc, hs⟩ | ⟨rest, nbits, w, h, hw, hs⟩ := step_cases s
    · cases hf.symm.trans ht
    · cases hf.symm.trans hs
    · cases hf.symm.trans hs
      exact ⟨rest, nbits, w, h, hw, rfl⟩

/-! ## The events of an edge, as the sequencer sees them -/

/-- The events that neither reset, nor answer a drain, nor tick. -/
def Event.isQuiet : Event → Bool
  | .getStatus | .rxByte _ | .switchCmd _ => true
  | .reset _ | .drainDone _ | .tick => false

/-- Which event an edge yields next, and what is left of its reset, drain answer and tick (60_exceptions.md R236). -/
theorem nextEvent_cases (hn : nextEvent e = some (ev, left)) :
    (∃ st, ev = .reset st ∧ e.reset = some st) ∨
    (ev.isQuiet = true ∧ left.reset = e.reset ∧ left.drainDone = e.drainDone ∧ left.tick = e.tick) ∨
    (∃ ok, ev = .drainDone ok ∧ e.drainDone = some ok ∧ left.reset = e.reset ∧ left.tick = e.tick) ∨
    (ev = .tick ∧ e.drainDone = none ∧ e.tick = true ∧ nextEvent left = none) := by
  obtain ⟨r, g, x, c, d, k, f⟩ := e
  unfold nextEvent at hn
  split at hn <;> simp_all <;> obtain ⟨rfl, rfl⟩ := hn <;> simp [Event.isQuiet, nextEvent]

theorem nextEvent_of_reset {st : Straps} (h : e.reset = some st) : nextEvent e = some (.reset st, {}) := by
  simp [nextEvent, h]

/-- What `DRAIN` depends on is the same in both states. -/
abbrev DrainKept (s t : State) : Prop := t.seqState = s.seqState ∧ t.drainDone = s.drainDone ∧ t.cfgFault = s.cfgFault

theorem rxByte_drainKept (b : Byte) (s : State) : DrainKept s (rxByte b s) := by
  have hframe := rxByte_frame b s
  have hseq := congrArg State.seqState hframe
  have hdone := congrArg State.drainDone hframe
  have hfault := congrArg State.cfgFault hframe
  exact ⟨hseq, hdone, hfault⟩

theorem execSwitchcmd_drainKept (r : Request) (s : State) : ∃ t, execSwitchcmd r s = .next t ∧ t.inputs = s.inputs ∧ DrainKept s t := by
  unfold execSwitchcmd
  split_ifs <;> exact ⟨_, rfl, rfl, rfl, rfl, by simp [raiseErr_eq]⟩

/-- A quiet event leaves alone what `DRAIN` depends on (70_reset_and_hazards.md R271). -/
theorem step_quiet (h : s.inputs = .edge e :: rest) (hn : nextEvent e = some (ev, left)) (hq : ev.isQuiet = true) :
    ∃ t, step s = .next t ∧ t.inputs = putBack left rest ∧ DrainKept s t := by
  cases ev with
  | reset | drainDone | tick => cases hq
  | getStatus => exact ⟨_, step_of_eventInstr h hn rfl, rfl, rfl, rfl, rfl⟩
  | switchCmd r =>
    obtain ⟨t, ht, hi, hk⟩ := execSwitchcmd_drainKept r (takeEvent e left rest s)
    exact ⟨t, (step_of_eventInstr h hn rfl).trans ht, hi, hk⟩
  | rxByte b =>
    cases hb : eventInstr (.rxByte b) (takeEvent e left rest s) with
    | none => exact ⟨_, step_of_no_instr h hn hb, rfl, rfl, rfl, rfl⟩
    | some i =>
      obtain ⟨b', hx⟩ := exec_received hb (takeEvent e left rest s)
      exact ⟨_, (step_of_eventInstr h hn hb).trans hx, (rxBytes_kept [b'] _).1.1, rxByte_drainKept b' _⟩

/-- A usable block latches a drain answer in `DRAIN` (10_state.md R35). -/
theorem drainAnswer_in_drain (ok : Bool) (hf : s.cfgFault = false) (hs : s.seqState = .drain) :
    drainAnswer ok s = { s with drainDone := true, drainOk := ok } := by
  simp [drainAnswer, hf, hs]

/-- A tick in `DRAIN` (43_command_sequencer.md R183). -/
theorem step_tick_in_drain (h : s.inputs = .edge e :: rest) (hn : nextEvent e = some (.tick, left)) (hs : s.seqState = .drain) :
    step s = .next (whenUsable (takeEvent e left rest s) (drainTick (takeEvent e left rest s))) := by
  rw [step_of_tick h hn (i := .seqDrain) (by rw [tickInstr, hs])]
  show Host.Outcome.next (whenUsable _ _) = _
  rw [if_pos hs]

/-- An edge with a reset ends in `IDLE` (70_reset_and_hazards.md R260). -/
theorem inputsHandled_reset {st : Straps} (h : s.inputs = [.edge e]) (hr : e.reset = some st) (ht : inputsHandled s = some t) :
    t.seqState = .idle := by
  have hstep := step_of_eventInstr h (nextEvent_of_reset hr) rfl
  obtain ⟨hinputs, hidle⟩ := resetWith_kept st (freeValues s.freeCtr) (takeEvent e {} [] s)
  have hafter := (after_succ (n := 4) hstep).trans (after_of_no_inputs 4 hinputs)
  rw [inputsHandled, h] at ht
  cases hafter.symm.trans ht
  exact hidle

/-! ## An edge handled in `DRAIN` -/

/-- The drain is unanswered, and the rest of the edge brings neither an answer nor a reset. -/
abbrev DrainUnanswered (e : Edge) (s : State) : Prop :=
  e.reset = none ∧ e.drainDone = none ∧ s.seqState = .drain ∧ s.drainDone = false

/-- Every event of an edge keeps an unanswered drain waiting. -/
theorem step_drainUnanswered (hP : DrainUnanswered e s) (h : s.inputs = [.edge e]) (hn : nextEvent e = some (ev, left)) :
    ∃ t, step s = .next t ∧ t.inputs = putBack left [] ∧ DrainUnanswered left t := by
  obtain ⟨hr, hd, hs, hw⟩ := hP
  obtain ⟨st, -, hr'⟩ | ⟨hq, hlr, hld, -⟩ | ⟨ok, -, hd', -⟩ | ⟨rfl, -, -, hl⟩ := nextEvent_cases hn
  · cases hr.symm.trans hr'
  · obtain ⟨t, ht, hi, hseq, hdone, -⟩ := step_quiet h hn hq
    exact ⟨t, ht, hi, hlr.trans hr, hld.trans hd, hseq.trans hs, hdone.trans hw⟩
  · cases hd.symm.trans hd'
  · have hwait : drainTick (takeEvent e left [] s) = takeEvent e left [] s := by simp [drainTick, hw]
    have hstep := step_tick_in_drain h hn hs
    rw [hwait, whenUsable, ite_self] at hstep
    obtain ⟨hlr, -, -, -, hld, -⟩ := nextEvent_eq_none hl
    exact ⟨_, hstep, rfl, hlr, hld, hs, hw⟩

theorem inputsHandled_drainUnanswered (hP : DrainUnanswered e s) (h : s.inputs = [.edge e]) :
    ∃ t, inputsHandled s = some t ∧ t.seqState = .drain ∧ t.drainDone = false := by
  obtain ⟨t, left, ht, -, -, -, -, hs, hw⟩ := inputsHandled_edge DrainUnanswered
    (fun _ _ _ _ hP h hn => step_drainUnanswered hP h hn) (fun _ _ hP _ => hP) hP h
  exact ⟨t, ht, hs, hw⟩

/-- The drain of a usable block is answered, or the rest of the edge, which brings no reset, answers it. -/
abbrev DrainAnswered (e : Edge) (s : State) : Prop :=
  e.reset = none ∧ s.cfgFault = false ∧ s.seqState = .drain ∧ (s.drainDone = true ∨ e.drainDone.isSome = true)

/-- An event keeps the drain answered, or is the tick, the last event of its edge, and leaves `DRAIN` (43_command_sequencer.md R183). -/
theorem step_drainAnswered (hP : DrainAnswered e s) (h : s.inputs = [.edge e]) (hn : nextEvent e = some (ev, left)) :
    ∃ t, step s = .next t ∧ t.inputs = putBack left [] ∧
      (DrainAnswered left t ∧ left.tick = e.tick ∨ e.tick = true ∧ nextEvent left = none ∧ t.seqState ≠ .drain) := by
  obtain ⟨hr, hf, hs, ha⟩ := hP
  obtain ⟨st, -, hr'⟩ | ⟨hq, hlr, hld, hlt⟩ | ⟨ok, rfl, -, hlr, hlt⟩ | ⟨rfl, hd, hk, hl⟩ := nextEvent_cases hn
  · cases hr.symm.trans hr'
  · obtain ⟨t, ht, hi, hseq, hdone, hfault⟩ := step_quiet h hn hq
    exact ⟨t, ht, hi, .inl ⟨⟨hlr.trans hr, hfault.trans hf, hseq.trans hs, by rwa [hdone, hld]⟩, hlt⟩⟩
  · have hstep := step_of_no_instr h hn rfl
    rw [eventEffect, drainAnswer_in_drain (s := takeEvent e left [] s) ok hf hs] at hstep
    exact ⟨_, hstep, rfl, .inl ⟨⟨hlr.trans hr, hf, hs, .inl rfl⟩, hlt⟩⟩
  · have hdone : s.drainDone = true := by simpa [hd] using ha
    have hstep := step_tick_in_drain h hn hs
    rw [whenUsable_of_usable (s := takeEvent e left [] s) hf] at hstep
    refine ⟨_, hstep, (drainTick_kept _).1, .inr ⟨hk, hl, ?_⟩⟩
    obtain ⟨hw, -⟩ | ⟨-, hout | hout⟩ := drainTick_cases (takeEvent e left [] s)
    · cases hw.symm.trans hdone
    · simp [hout]
    · simp [hout]

/-- What is left of an edge while it is handled from an answered drain: the answered drain with the edge's tick still to come if it has
one (`tick`), or, after that tick, no event and a sequencer outside `DRAIN`. -/
def drainEnding (tick : Bool) (e : Edge) (s : State) : Prop :=
  DrainAnswered e s ∧ e.tick = tick ∨ tick = true ∧ nextEvent e = none ∧ s.seqState ≠ .drain

theorem step_drainEnding {tick : Bool} (hP : drainEnding tick e s) (h : s.inputs = [.edge e]) (hn : nextEvent e = some (ev, left)) :
    ∃ t, step s = .next t ∧ t.inputs = putBack left [] ∧ drainEnding tick left t := by
  obtain ⟨ha, rfl⟩ | ⟨-, hnone, -⟩ := hP
  · exact step_drainAnswered ha h hn
  · cases hnone.symm.trans hn

/-- An edge handled from an answered drain leaves `DRAIN` if it has a tick, and else keeps the answered drain. -/
theorem inputsHandled_drainAnswered (hP : DrainAnswered e s) (h : s.inputs = [.edge e]) :
    ∃ t, inputsHandled s = some t ∧
      (e.tick = true ∧ t.seqState ≠ .drain ∨ e.tick = false ∧ t.drainDone = true) := by
  obtain ⟨t, left, ht, -, hl, hend⟩ := inputsHandled_edge (drainEnding e.tick)
    (fun _ _ _ _ hP h hn => step_drainEnding hP h hn) (fun _ _ hP _ => hP) (.inl ⟨hP, rfl⟩) h
  refine ⟨t, ht, ?_⟩
  obtain ⟨⟨-, -, -, ha⟩, htick⟩ | ⟨htick, -, hs⟩ := hend
  · obtain ⟨-, -, -, -, hd, hk⟩ := nextEvent_eq_none hl
    exact .inr ⟨htick.symm.trans hk, by simpa [hd] using ha⟩
  · exact .inl ⟨htick, hs⟩

/-! ## Hanging drains -/

/-- The inputs are used up between edges, so an edge is handled by itself. -/
theorem afterEdges_succ {n : Nat} (h : afterEdges env n s = some t) :
    afterEdges env (n + 1) s = inputsHandled { t with inputs := [.edge (env n)] } := by
  rw [afterEdges, h, Option.bind_some, afterEdges_inputs h, List.nil_append]

/-- An unanswered drain without an answer or a reset to come waits after every later edge. -/
theorem afterEdges_drainUnanswered {n : Nat} (h : afterEdges env n s = some t) (hs : t.seqState = .drain) (hw : t.drainDone = false)
    (hno : ∀ m ≥ n, (env m).drainDone = none ∧ (env m).reset = none) (m : Nat) (hm : n ≤ m) :
    ∃ u, afterEdges env m s = some u ∧ u.seqState = .drain ∧ u.drainDone = false := by
  induction m, hm using Nat.le_induction with
  | base => exact ⟨t, h, hs, hw⟩
  | succ m hm ih =>
    obtain ⟨u, hu, hus, huw⟩ := ih
    obtain ⟨hd, hr⟩ := hno m hm
    rw [afterEdges_succ hu]
    exact inputsHandled_drainUnanswered ⟨hr, hd, hus, huw⟩ rfl

/-- From edge `n` on the sequencer is in `DRAIN` after every edge. -/
def inDrainFrom (env : Nat → Edge) (s : State) (n : Nat) : Prop := ∀ m ≥ n, ∃ t, afterEdges env m s = some t ∧ t.seqState = .drain

section Held
variable {n : Nat} (hf : faultIdle s) (hheld : inDrainFrom env s n)

include hheld in
/-- A run held in `DRAIN` gets no reset. -/
theorem inDrainFrom_no_reset {m : Nat} (hm : n ≤ m) : (env m).reset = none := by
  by_contra hr
  obtain ⟨st, hst⟩ := Option.ne_none_iff_exists'.1 hr
  obtain ⟨t, ht, -⟩ := hheld m hm
  obtain ⟨u, hu, hus⟩ := hheld (m + 1) (by omega)
  rw [afterEdges_succ ht] at hu
  cases hus.symm.trans (inputsHandled_reset rfl hst hu)

include hf hheld in
/-- Where a run held in `DRAIN` has an answer, the edge has no tick, and the answer is there after it too. -/
theorem inDrainFrom_answered_succ {m : Nat} (hm : n ≤ m) (ht : afterEdges env m s = some t)
    (ha : t.drainDone = true ∨ (env m).drainDone.isSome = true) :
    (env m).tick = false ∧ ∃ u, afterEdges env (m + 1) s = some u ∧ u.drainDone = true := by
  obtain ⟨t', ht', hs⟩ := hheld m hm
  cases ht.symm.trans ht'
  have husable : t.cfgFault = false := by
    by_contra hfault
    have hidle := afterEdges_faultIdle hf ht (by simpa using hfault)
    cases hs.symm.trans hidle
  have hP : DrainAnswered (env m) { t with inputs := [.edge (env m)] } := ⟨inDrainFrom_no_reset hheld hm, husable, hs, ha⟩
  obtain ⟨u, hu, ⟨-, hout⟩ | ⟨hk, hdone⟩⟩ := inputsHandled_drainAnswered hP rfl
  · obtain ⟨u', hu', hus⟩ := hheld (m + 1) (by omega)
    rw [afterEdges_succ ht, hu] at hu'
    cases hu'
    exact absurd hus hout
  · exact ⟨hk, u, (afterEdges_succ ht).trans hu, hdone⟩

include hf hheld in
/-- Where a run held in `DRAIN` has an answer, no tick comes any more. -/
theorem inDrainFrom_answered_no_tick {m : Nat} (hm : n ≤ m) (ht : afterEdges env m s = some t)
    (ha : t.drainDone = true ∨ (env m).drainDone.isSome = true) (j : Nat) (hj : m ≤ j) : (env j).tick = false := by
  have hanswered : (env j).tick = false ∧ ∃ u, afterEdges env (j + 1) s = some u ∧ u.drainDone = true := by
    induction j, hj using Nat.le_induction with
    | base => exact inDrainFrom_answered_succ hf hheld hm ht ha
    | succ j hj ih =>
      obtain ⟨-, u, hu, hdone⟩ := ih
      exact inDrainFrom_answered_succ hf hheld (by omega) hu (.inl hdone)
  exact hanswered.1

include hf hheld in
/-- So, with time going on, a run held in `DRAIN` has no answer. -/
theorem inDrainFrom_unanswered (htime : timeGoesOn env) {m : Nat} (hm : n ≤ m) (ht : afterEdges env m s = some t) :
    t.drainDone = false ∧ (env m).drainDone = none := by
  obtain ⟨j, hj, htick⟩ := htime m
  have hnot : ¬ (t.drainDone = true ∨ (env m).drainDone.isSome = true) := fun ha => by
    cases htick.symm.trans (inDrainFrom_answered_no_tick hf hheld hm ht ha j hj)
  simpa using hnot

end Held

/-- Settles O47. An unanswered drain waits through every edge without an answer or a reset; conversely a reset ends in `IDLE`, and an
answer would be there at the next tick, which leaves `DRAIN`. -/
theorem hangingDrainGoesWrong : Obligations.HangingDrainGoesWrong := by
  refine fun env s htime => ⟨fun n t ht hs hw hno => ?_, fun hf hheld => ?_⟩
  · have hheld : heldInDrain env s := ⟨htime, n, fun m hm => by
      obtain ⟨u, hu, hus, -⟩ := afterEdges_drainUnanswered ht hs hw hno m hm
      exact ⟨u, hu, hus⟩⟩
    exact ⟨hheld, .inr (.inr hheld)⟩
  · obtain ⟨-, n, hfrom⟩ := hheld
    obtain ⟨t, ht, hs⟩ := hfrom n le_rfl
    obtain ⟨hw, -⟩ := inDrainFrom_unanswered hf hfrom htime le_rfl ht
    refine ⟨n, t, ht, hs, hw, fun m hm => ?_⟩
    obtain ⟨u, hu, -⟩ := hfrom m hm
    exact ⟨(inDrainFrom_unanswered hf hfrom htime hm hu).2, inDrainFrom_no_reset hfrom hm⟩

end Sys2Proof.Machine
end

section
/-!
PROOFS. The registers (10_state.md): which of them each instruction may write, and the values they have after a reset.
-/
namespace Sys2Proof.Machine

variable {s t u : State} {e left : Edge} {ev : Event} {rest : List Input}

/-! ## The two halves of the state -/

/-- A state without its TX path, error flags and outputs: what the receive side and the configuration are made of. -/
def eraseTx (s : State) : State :=
  { s with
    q := [], seqState := .idle, idx := 0, timer := 0, curLen := 0, curChars := Vector.replicate 4 0, wire := Vector.replicate 4 0
    drainDone := false, drainOk := false, errWrite := false, errDrain := false, errQfull := false, outs := [], freeCtr := 0 }

/-- From `s` to `t` nothing but the TX path, the error flags and the outputs is written, and no flag is cleared (10_state.md R38, R41). -/
structure TxOnly (s t : State) : Prop where
  frame : eraseTx t = eraseTx s
  errWrite : s.errWrite = true → t.errWrite = true
  errDrain : s.errDrain = true → t.errDrain = true
  errQfull : s.errQfull = true → t.errQfull = true

/-- From `s` to `t` nothing but the receive path and the status is written, and `ST_VALID` is not cleared (10_state.md R31, R41). -/
structure RxOnly (s t : State) : Prop where
  frame : eraseRx t = eraseRx s
  stValid : s.stValid = true → t.stValid = true

theorem TxOnly.refl (s : State) : TxOnly s s := ⟨rfl, id, id, id⟩

theorem RxOnly.refl (s : State) : RxOnly s s := ⟨rfl, id⟩

theorem TxOnly.trans (h : TxOnly s t) (h' : TxOnly t u) : TxOnly s u :=
  ⟨h'.frame.trans h.frame, h'.errWrite ∘ h.errWrite, h'.errDrain ∘ h.errDrain, h'.errQfull ∘ h.errQfull⟩

/-- States that agree outside the receive path and the status differ in these alone. -/
theorem eq_of_eraseRx (h : eraseRx t = eraseRx s) :
    t = { s with
      rxSynced := t.rxSynced, rxCnt := t.rxCnt, rxBuf := t.rxBuf, stValid := t.stValid
      stMem := t.stMem, stRoute := t.stRoute, stIn := t.stIn, stOut := t.stOut, stPower := t.stPower } := by
  cases s
  cases t
  simpa [eraseRx] using h

/-! ## What each shared operation writes -/

theorem whenUsable_txOnly (h : TxOnly s t) : TxOnly s (whenUsable s t) := by
  unfold whenUsable
  split
  · exact .refl s
  · exact h

theorem whenUsable_rxOnly (h : RxOnly s t) : RxOnly s (whenUsable s t) := by
  unfold whenUsable
  split
  · exact .refl s
  · exact h

theorem emit_txOnly (o : Output) (s : State) : TxOnly s (emit o s) := ⟨rfl, id, id, id⟩

/-- An error condition other than a bad label sets its flag and clears none (60_exceptions.md R231). -/
theorem raiseErr_txOnly {c : ErrCond} (hc : c ≠ .eCfgLabel) (s : State) : TxOnly s (raiseErr c s) := by
  have hlabel : (c == .eCfgLabel) = false := by simpa using hc
  rw [raiseErr_eq, hlabel, Bool.or_false]
  exact ⟨rfl, fun h => by simp [h], fun h => by simp [h], fun h => by simp [h]⟩

theorem loadRequest_txOnly (r : Request) (waiting : List Request) (s : State) : TxOnly s (loadRequest r waiting s) :=
  ⟨rfl, id, id, id⟩

theorem nextChar_txOnly (s : State) : TxOnly s (nextChar s) := ⟨rfl, id, id, id⟩

theorem count_txOnly (s : State) : TxOnly s { s with timer := s.timer + 1 } := ⟨rfl, id, id, id⟩

theorem advance_txOnly (s : State) : TxOnly s (advance s) := by
  obtain ⟨q, l, cs, i, u, st, hadv⟩ := advanceOver_frame s.q s
  rw [advance, hadv]
  exact ⟨rfl, id, id, id⟩

theorem startRequest_txOnly (s : State) : TxOnly s (startRequest s) := by
  unfold startRequest
  split
  · exact .refl s
  · exact (loadRequest_txOnly _ _ s).trans (advance_txOnly _)

theorem beginXmit_txOnly (s : State) : TxOnly s (beginXmit s) := by
  obtain ⟨w, n, -, hbegin⟩ := beginXmit_eq s
  rw [hbegin]
  exact ⟨rfl, fun h => by simp [h], id, id⟩

theorem settleTick_txOnly (s : State) : TxOnly s (settleTick s) := by
  unfold settleTick
  simp only
  split
  · exact (count_txOnly s).trans (beginXmit_txOnly _)
  · exact count_txOnly s

theorem staggeredWrite_txOnly (s : State) : TxOnly s (staggeredWrite s) := by
  obtain ⟨k, -, -, hwrite⟩ | ⟨-, hsilent⟩ := staggeredWrite_cases s
  · rw [hwrite]
    exact ⟨rfl, fun h => by simp [h], id, id⟩
  · rw [hsilent]
    exact .refl s

theorem drainRequest_txOnly (s : State) : TxOnly s (drainRequest s) := ⟨rfl, id, id, id⟩

theorem xmitTick_txOnly (s : State) : TxOnly s (xmitTick s) := by
  have hwrite : TxOnly s (staggeredWrite { s with timer := s.timer + 1 }) := (count_txOnly s).trans (staggeredWrite_txOnly _)
  unfold xmitTick
  simp only
  split
  · exact hwrite.trans (drainRequest_txOnly _)
  · exact hwrite

theorem endStep_txOnly (s : State) : TxOnly s (endStep s) := (nextChar_txOnly s).trans (advance_txOnly _)

theorem drainTick_txOnly (s : State) : TxOnly s (drainTick s) := by
  unfold drainTick
  split_ifs
  · exact endStep_txOnly s
  · exact (raiseErr_txOnly (by decide) s).trans (endStep_txOnly _)
  · exact .refl s

theorem drainAnswer_txOnly (ok : Bool) (s : State) : TxOnly s (drainAnswer ok s) := by
  obtain hsame | ⟨-, -, hlatch⟩ := drainAnswer_cases ok s
  · rw [hsame]
    exact .refl s
  · rw [hlatch]
    exact ⟨rfl, id, id, id⟩

theorem rxBytes_rxOnly (bs : List Byte) (s : State) : RxOnly s (rxBytes bs s) := ⟨rxBytes_frame bs s, rxBytes_stValid bs⟩

/-! ## What each instruction writes -/

/-- The rows that write the receive path or the status: received bytes, a frame, `INSTALL`. -/
def isReceive : Instr → Bool
  | .rxMarkerTop | .rxMarkerBottom | .rxDataSynced _ | .rxDataUnsynced _ | .sf13 _ | .install _ => true
  | _ => false

/-- What an instruction may write: `RESET` what a reset writes, a receive row the receive side alone, every other row the TX side alone
(10_state.md R41). -/
inductive Writes (s : State) : Instr → State → Prop
  | reset (st : Straps) : Writes s (.reset st) { resetWith st (freeValues s.freeCtr) s with freeCtr := s.freeCtr + 1 }
  | receive {i : Instr} {t : State} (hi : isReceive i = true) (h : RxOnly s t) : Writes s i t
  | transmit {i : Instr} {t : State} (hi : isReceive i = false) (h : TxOnly s t) : Writes s i t

theorem execSf13_rxOnly (f : Vector Byte 13) (s : State) : ∃ t, execSf13 f s = .next t ∧ RxOnly s t := by
  unfold execSf13
  split
  · exact ⟨_, rfl, .refl s⟩
  · exact ⟨_, rfl, rxBytes_rxOnly _ s⟩

theorem execSwitchcmd_txOnly (r : Request) (s : State) : ∃ t, execSwitchcmd r s = .next t ∧ TxOnly s t := by
  unfold execSwitchcmd
  split_ifs
  · exact ⟨_, rfl, emit_txOnly _ s⟩
  · exact ⟨_, rfl, emit_txOnly _ s⟩
  · exact ⟨_, rfl, (raiseErr_txOnly (by decide) s).trans (emit_txOnly _ _)⟩
  · exact ⟨_, rfl, rfl, id, id, id⟩

/-- What a sequencer row does only in the states that select it (43_command_sequencer.md R173). -/
theorem ite_txOnly {p : Prop} [Decidable p] (h : TxOnly s t) : TxOnly s (if p then t else s) := by
  split
  · exact h
  · exact .refl s

theorem exec_transmit {i : Instr} (hi : isReceive i = false) (h : ∃ t, exec i s = .next t ∧ TxOnly s t) :
    ∃ t, exec i s = .next t ∧ Writes s i t := by
  obtain ⟨t, ht, hw⟩ := h
  exact ⟨t, ht, .transmit hi hw⟩

/-- Every instruction answers a next state and writes what `Writes` says. -/
theorem exec_writes (i : Instr) (s : State) : ∃ t, exec i s = .next t ∧ Writes s i t := by
  cases i with
  | reset st => exact ⟨_, rfl, .reset st⟩
  | rxMarkerTop => exact ⟨_, rfl, .receive rfl (rxBytes_rxOnly [_] s)⟩
  | rxMarkerBottom => exact ⟨_, rfl, .receive rfl (rxBytes_rxOnly [_] s)⟩
  | rxDataSynced b => exact ⟨_, rfl, .receive rfl (rxBytes_rxOnly [b] s)⟩
  | rxDataUnsynced b => exact ⟨_, rfl, .receive rfl (rxBytes_rxOnly [b] s)⟩
  | sf13 f =>
    obtain ⟨t, ht, hw⟩ := execSf13_rxOnly f s
    exact ⟨t, ht, .receive rfl hw⟩
  | install st => exact ⟨_, rfl, .receive rfl (whenUsable_rxOnly ⟨rfl, fun _ => rfl⟩)⟩
  | switchcmd r => exact exec_transmit rfl (execSwitchcmd_txOnly r s)
  | seqStart => exact exec_transmit rfl ⟨_, rfl, whenUsable_txOnly (ite_txOnly (startRequest_txOnly s))⟩
  | seqAdvance => exact exec_transmit rfl ⟨_, rfl, whenUsable_txOnly (advance_txOnly s)⟩
  | seqSettle => exact exec_transmit rfl ⟨_, rfl, whenUsable_txOnly (ite_txOnly (settleTick_txOnly s))⟩
  | seqBeginXmit => exact exec_transmit rfl ⟨_, rfl, whenUsable_txOnly (beginXmit_txOnly s)⟩
  | seqXmit => exact exec_transmit rfl ⟨_, rfl, whenUsable_txOnly (ite_txOnly (xmitTick_txOnly s))⟩
  | seqDrain =>
    refine exec_transmit rfl ⟨_, rfl, whenUsable_txOnly ?_⟩
    split_ifs
    · exact drainTick_txOnly s
    · exact drainRequest_txOnly s
    · exact .refl s
  | seqEndStep => exact exec_transmit rfl ⟨_, rfl, whenUsable_txOnly (ite_txOnly (endStep_txOnly s))⟩
  | getPortNumber | isAvailable | decodeFn | parse | cmdint | complement | encodeFn | getstatus =>
    exact exec_transmit rfl ⟨_, rfl, emit_txOnly _ s⟩
  | _ => exact exec_transmit rfl ⟨_, rfl, whenUsable_txOnly ⟨rfl, id, id, id⟩⟩

theorem writes_of_exec {i : Instr} (h : exec i s = .next t) : Writes s i t := by
  obtain ⟨t', ht', hw⟩ := exec_writes i s
  cases h.symm.trans ht'
  exact hw

/-- Settles O52: a receive row leaves the flags alone, every other row `ST_VALID`. -/
theorem onlyResetClearsStickyBits : Obligations.OnlyResetClearsStickyBits := by
  intro i s t hi ht
  cases writes_of_exec ht with
  | reset st => exact absurd rfl (hi st)
  | receive _ h =>
    have hw := congrArg State.errWrite h.frame
    have hd := congrArg State.errDrain h.frame
    have hq := congrArg State.errQfull h.frame
    exact ⟨hw.trans, hd.trans, hq.trans, h.stValid⟩
  | transmit _ h =>
    have hv := congrArg State.stValid h.frame
    exact ⟨h.errWrite, h.errDrain, h.errQfull, hv.trans⟩

theorem resetWith_qDepth (st : Straps) (v : Unspecified) (s : State) : (resetWith st v s).qDepth = s.qDepth := by
  unfold resetWith
  simp only
  split <;> rfl

/-- Settles O53: the configuration is on neither side of the block. -/
theorem onlyResetWritesConfiguration : Obligations.OnlyResetWritesConfiguration := by
  intro i s t ht
  cases writes_of_exec ht with
  | reset st => exact ⟨resetWith_qDepth st _ s, fun hi => absurd rfl (hi st)⟩
  | receive _ h =>
    have hf := h.frame
    simp only [eraseRx, State.mk.injEq] at hf
    simp only [hf, and_self, implies_true]
  | transmit _ h =>
    have hf := h.frame
    simp only [eraseTx, State.mk.injEq] at hf
    simp only [hf, and_self, implies_true]

/-! ## What each event writes -/

/-- An event that is no received byte and no `Reset` writes the TX side alone. -/
theorem step_txOnly (h : s.inputs = .edge e :: rest) (hn : nextEvent e = some (ev, left)) (hreset : ∀ st, ev ≠ .reset st)
    (hrx : ∀ b, ev ≠ .rxByte b) : ∃ t, step s = .next t ∧ TxOnly (takeEvent e left rest s) t := by
  have transmits {i : Instr} (hi : eventInstr ev (takeEvent e left rest s) = some i) (hne : ∀ st, i ≠ .reset st)
      (hri : isReceive i = false) : ∃ t, step s = .next t ∧ TxOnly (takeEvent e left rest s) t := by
    obtain ⟨t, ht, hw⟩ := exec_writes i (takeEvent e left rest s)
    refine ⟨t, (step_of_eventInstr h hn hi).trans ht, ?_⟩
    cases hw with
    | reset st => exact absurd rfl (hne st)
    | receive hi' _ => cases hri.symm.trans hi'
    | transmit _ hw => exact hw
  cases ev with
  | reset st => exact absurd rfl (hreset st)
  | rxByte b => exact absurd rfl (hrx b)
  | getStatus => exact transmits rfl nofun rfl
  | switchCmd r => exact transmits rfl nofun rfl
  | drainDone ok => exact ⟨_, step_of_no_instr h hn rfl, drainAnswer_txOnly ok _⟩
  | tick =>
    have hi : eventInstr .tick (takeEvent e left rest s) = some (tickInstr s) := rfl
    cases hs : s.seqState <;> simp only [tickInstr, hs] at hi <;> exact transmits hi nofun rfl

/-- Settles O54. -/
theorem onlyReceivedBytesWriteStatus : Obligations.OnlyReceivedBytesWriteStatus := by
  intro s t e left rest ev h hn hreset hrx ht
  obtain ⟨t', ht', hw⟩ := step_txOnly h hn hreset hrx
  cases ht.symm.trans ht'
  have hf := hw.frame
  simp only [eraseTx, State.mk.injEq] at hf
  simp only [hf, and_self]

/-- A received byte is handled by `rxByte`, or is ignored under an unknown label. -/
theorem step_rxByte {b : Byte} (h : s.inputs = .edge e :: rest) (hn : nextEvent e = some (.rxByte b, left)) :
    step s = .next (takeEvent e left rest s) ∨ ∃ b', step s = .next (rxByte b' (takeEvent e left rest s)) := by
  cases hb : eventInstr (.rxByte b) (takeEvent e left rest s) with
  | none => exact .inl (step_of_no_instr h hn hb)
  | some i =>
    obtain ⟨b', hx⟩ := exec_received hb (takeEvent e left rest s)
    exact .inr ⟨b', (step_of_eventInstr h hn hb).trans hx⟩

/-- Settles O55. -/
theorem receivedBytesLeaveSequencer : Obligations.ReceivedBytesLeaveSequencer := by
  intro s t e left rest b h hn ht
  have hframe : eraseRx t = eraseRx (takeEvent e left rest s) := by
    obtain hs | ⟨b', hs⟩ := step_rxByte h hn <;> cases ht.symm.trans hs
    · rfl
    · exact rxByte_frame b' _
  exact eq_of_eraseRx hframe

/-! ## The wire step and the drain answer -/

theorem latchWire_of_usable (h : s.cfgFault = false) (w : Vector Byte 4) : latchWire w s = { s with wire := w } :=
  whenUsable_of_usable h _

/-- The sixteen rows of 30_encoding.md R85 are wire steps, row `k` with command byte `k` and its complement. -/
theorem exec_ws4Row (k : Fin 16) (s : State) :
    exec ([Instr.ws4Out1In1, .ws4Out1In2, .ws4Out1In3, .ws4Out1In4, .ws4Out2In1, .ws4Out2In2, .ws4Out2In3, .ws4Out2In4,
      .ws4Out3In1, .ws4Out3In2, .ws4Out3In3, .ws4Out3In4, .ws4Out4In1, .ws4Out4In2, .ws4Out4In3, .ws4Out4In4][k.val]) s =
      .next (latchWire #v[BitVec.ofNat 8 k.val, BitVec.ofNat 8 (255 - k.val), 0xD5, 0x7B] s) := by
  fin_cases k <;> rfl

/-- Settles O25. -/
theorem wireStepIsLatched : Obligations.WireStepIsLatched := by
  refine fun s h => ⟨fun k => ?_, fun cmd comp => ?_⟩
  · rw [exec_ws4Row, latchWire_of_usable h]
  · exact congrArg Host.Outcome.next (latchWire_of_usable h _)

/-- A drain answer is ignored under `CFG_FAULT` and outside `DRAIN` (10_state.md R35). -/
theorem drainAnswer_ignored (ok : Bool) (h : s.cfgFault = true ∨ s.seqState ≠ .drain) : drainAnswer ok s = s := by
  obtain hsame | ⟨husable, hdrain, -⟩ := drainAnswer_cases ok s
  · exact hsame
  · simp [husable, hdrain] at h

/-- Settles O44: the answer is the only event of its edge. -/
theorem drainAnswerIsLatchedOnlyInDrain : Obligations.DrainAnswerIsLatchedOnlyInDrain := by
  intro s ok rest h
  have hstep : step s = .next (drainAnswer ok { s with inputs := rest, txFail := false }) :=
    step_of_no_instr (ev := .drainDone ok) h rfl rfl
  exact ⟨fun hf hs => hstep.trans (congrArg _ (drainAnswer_in_drain ok hf hs)),
    fun hno => hstep.trans (congrArg _ (drainAnswer_ignored ok hno))⟩

end Sys2Proof.Machine
end

section
/-!
PROOFS. The invariant of the hardware: every reset establishes it and every event keeps it, the receive path its part of it and the
sequencer its own.
-/
namespace Sys2Proof.Machine

variable {s t : State} {e left : Edge} {ev : Event} {rest : List Input}

/-! ## Reset -/

/-- A reset establishes the invariant, whatever the straps are and whatever legal length `CUR_LEN` is left with
(70_reset_and_hazards.md R260). -/
theorem resetWith_inv (st : Straps) (v : Unspecified) (hlen : v.curLen.toNat ≤ 4) (hedges : edgesOnly s) (hdepth : ∀ d ∈ s.qDepth, 0 < d) :
    Inv (resetWith st v s) := by
  unfold resetWith
  simp only [raiseErr_eq]
  split <;> rename_i hlabel <;>
    exact ⟨by simp [configOk, hlabel], by simp [rxOk], by simp [statusOk], ⟨by simp, by simpa using hdepth⟩,
      by simp [sequencerOk, hlen], by simp [faultOk], hedges⟩

theorem freeValues_curLen (n : Nat) : (freeValues n).curLen.toNat ≤ 4 := by
  have hlt := (Config.freeCurLen n).isLt
  simp only [freeValues, BitVec.toNat_ofNat]
  omega

/-- `State.reset` is what a reset with the default straps and zeros in the unspecified registers leaves. -/
theorem resetWith_default : resetWith Straps.default Unspecified.zero State.reset = State.reset := rfl

/-- Settles O57. -/
theorem invariantHoldsAtReset : Obligations.InvariantHoldsAtReset := by
  have hinv : Inv (resetWith Straps.default Unspecified.zero State.reset) :=
    resetWith_inv (s := State.reset) _ _ (by decide) (by simp [edgesOnly, State.reset]) (by simp [State.reset])
  rwa [resetWith_default] at hinv

/-- Settles O50. -/
theorem resetStateValues : Obligations.ResetStateValues := by
  unfold Obligations.ResetStateValues
  decide

/-! ## The parts of the invariant and the two sides of the block -/

/-- Taking an event from a clock edge touches only the inputs still to come and `tx_fail`. -/
theorem inv_with_inputs (h : Inv s) {xs : List Input} (hxs : ∀ x ∈ xs, x.isEdge = true) (fails : Bool) :
    Inv { s with inputs := xs, txFail := fails } := by
  obtain ⟨hconfig, hrx, hstatus, hqueue, hseq, hfault, -⟩ := h
  exact ⟨hconfig, hrx, hstatus, hqueue, hseq, hfault, hxs⟩

theorem inv_takeEvent (h : Inv s) (hs : s.inputs = .edge e :: rest) : Inv (takeEvent e left rest s) := by
  obtain ⟨-, -, -, -, -, -, hedges⟩ := id h
  refine inv_with_inputs h (fun x hx => ?_) _
  unfold putBack at hx
  split at hx
  · obtain rfl | hx := List.mem_cons.1 hx
    · rfl
    · exact hedges x (by simp [hs, hx])
  · exact hedges x (by simp [hs, hx])

theorem inv_emit (o : Output) (h : Inv s) : Inv (emit o s) := h

theorem inv_whenUsable (h : Inv s) (ht : s.cfgFault = false → Inv t) : Inv (whenUsable s t) := by
  unfold whenUsable
  split
  · exact h
  · rename_i hf
    exact ht (by simpa using hf)

/-- The TX path's part of the invariant. -/
abbrev txOk (s : State) : Prop := queueOk s ∧ sequencerOk s

theorem txOk_of_inv (h : Inv s) : txOk s := by
  obtain ⟨-, -, -, hqueue, hseq, -, -⟩ := h
  exact ⟨hqueue, hseq⟩

/-- What writes the TX side alone of a usable block keeps the invariant if it keeps the TX path's part. -/
theorem inv_of_txOnly (h : Inv s) (hf : s.cfgFault = false) (hw : TxOnly s t) (htx : txOk t) : Inv t := by
  obtain ⟨hqueue, hseq⟩ := htx
  obtain ⟨hconfig, hrx, hstatus, -, -, -, hedges⟩ := h
  have hfault : t.cfgFault = false := (congrArg State.cfgFault hw.frame :).trans hf
  have hkept : configOk (eraseTx t) ∧ rxOk (eraseTx t) ∧ statusOk (eraseTx t) ∧ edgesOnly (eraseTx t) := by
    rw [hw.frame]
    exact ⟨hconfig, hrx, hstatus, hedges⟩
  obtain ⟨hconfig', hrx', hstatus', hedges'⟩ := hkept
  exact ⟨hconfig', hrx', hstatus', hqueue, hseq, fun hf' => by simp [hfault] at hf', hedges'⟩

/-- What writes the receive side alone of a usable block keeps the invariant if it keeps the receive path's part and the status's. -/
theorem inv_of_rxOnly (h : Inv s) (hf : s.cfgFault = false) (hw : RxOnly s t) (hrx : rxOk t) (hstatus : statusOk t) : Inv t := by
  obtain ⟨hconfig, -, -, hqueue, hseq, -, hedges⟩ := h
  have hfault : t.cfgFault = false := (congrArg State.cfgFault hw.frame :).trans hf
  have hkept : configOk (eraseRx t) ∧ queueOk (eraseRx t) ∧ sequencerOk (eraseRx t) ∧ edgesOnly (eraseRx t) := by
    rw [hw.frame]
    exact ⟨hconfig, hqueue, hseq, hedges⟩
  obtain ⟨hconfig', hqueue', hseq', hedges'⟩ := hkept
  exact ⟨hconfig', hrx, hstatus, hqueue', hseq', fun hf' => by simp [hfault] at hf', hedges'⟩

/-! ## Received bytes -/

/-- An installed frame has zeros where the configuration has no channels (41_status_interpreter.md R137). -/
theorem installStatus_statusOk (f : Vector Byte 13) (s : State) : statusOk (installStatus (decodeFrame s.cfgOut4 f) s) := by
  refine ⟨fun h => ?_, nofun⟩
  have h : s.cfgOut4 = false := h
  simp [decodeFrame, selectors, h]

theorem rxMarker_rxOk (s : State) : rxOk (rxMarker s) := by
  by_cases hc : s.rxSynced = true ∧ s.rxCnt.toNat = 13
  · rw [rxMarker_install hc.1 hc.2]
    simp [rxOk]
  · rw [rxMarker_open hc]
    simp [rxOk]

theorem rxMarker_statusOk (h : statusOk s) : statusOk (rxMarker s) := by
  by_cases hc : s.rxSynced = true ∧ s.rxCnt.toNat = 13
  · rw [rxMarker_install hc.1 hc.2]
    exact installStatus_statusOk s.rxBuf s
  · rw [rxMarker_open hc]
    exact h

/-- A data byte beyond the thirteenth is counted up to 14 and not stored (40_frame_decoder.md R111). -/
theorem rxData_count (b : Byte) (hs : s.rxSynced = true) (hc : 13 ≤ s.rxCnt.toNat) :
    rxData b s = { s with rxCnt := if s.rxCnt.toNat < 14 then s.rxCnt + 1 else s.rxCnt } := by
  have hfull : ¬ s.rxCnt.toNat < 13 := by omega
  simp [rxData, hs, hfull]

/-- A data byte, which is no marker, keeps the marker out of the stored candidate (40_frame_decoder.md R116). -/
theorem rxData_rxOk {b : Byte} (hb : marker s.cfgLabel ≠ some b) (h : rxOk s) : rxOk (rxData b s) := by
  obtain ⟨hcnt, hunsynced, hbuf⟩ := h
  cases hs : s.rxSynced with
  | false =>
    have hsame : rxData b s = s := by simp [rxData, hs]
    rw [hsame]
    exact ⟨hcnt, hunsynced, hbuf⟩
  | true =>
    have hsucc : s.rxCnt.toNat < 14 → (s.rxCnt + 1).toNat = s.rxCnt.toNat + 1 := fun hlt => by
      rw [BitVec.toNat_add]
      simp
      omega
    by_cases hc : s.rxCnt.toNat < 13
    · have hcnt' := hsucc (by omega)
      rw [rxData_store b hs hc]
      refine ⟨?_, by simp [hs], fun k hk => ?_⟩
      · show (s.rxCnt + 1).toNat ≤ 14
        omega
      · have hk : k.val < (s.rxCnt + 1).toNat := hk
        show marker s.cfgLabel ≠ some ((s.rxBuf.set s.rxCnt.toNat b)[k.val])
        rw [Vector.getElem_set]
        split
        · exact hb
        · exact hbuf k (by omega)
    · rw [rxData_count b hs (by omega)]
      refine ⟨?_, by simp [hs], fun k _ => hbuf k (by omega)⟩
      show (if s.rxCnt.toNat < 14 then s.rxCnt + 1 else s.rxCnt).toNat ≤ 14
      split
      · have := hsucc ‹_›
        omega
      · exact hcnt

theorem rxData_statusOk (b : Byte) (h : statusOk s) : statusOk (rxData b s) := by
  unfold rxData
  split <;> exact h

theorem inv_rxByte (b : Byte) (h : Inv s) : Inv (rxByte b s) := by
  obtain ⟨-, hrx, hstatus, -⟩ := id h
  have hw : RxOnly s (rxByte b s) := rxBytes_rxOnly [b] s
  obtain ⟨-, hsame⟩ | ⟨hf, -, hmarker⟩ | ⟨hf, hb, hdata⟩ := rxByte_cases b s
  · rwa [hsame]
  · rw [hmarker] at hw ⊢
    exact inv_of_rxOnly h hf hw (rxMarker_rxOk s) (rxMarker_statusOk hstatus)
  · rw [hdata] at hw ⊢
    exact inv_of_rxOnly h hf hw (rxData_rxOk hb hrx) (rxData_statusOk b hstatus)

/-! ## Switch requests and drain answers -/

/-- A queue that is not full has room for a legal request (43_command_sequencer.md R170). -/
theorem qPush_queueOk {r : Request} (hr : r.len.toNat ≤ 4) (hroom : queueFull s = false) (h : queueOk s) : queueOk (qPush r s) := by
  obtain ⟨hlens, hdepth⟩ := h
  refine ⟨fun r' hr' => ?_, fun d hd => ?_⟩
  · obtain hold | hnew := List.mem_append.1 hr'
    · exact hlens r' hold
    · rw [List.mem_singleton.1 hnew]
      exact hr
  · obtain ⟨hpos, -⟩ := hdepth d hd
    have hd : s.qDepth = some d := hd
    simp only [queueFull, hd, decide_eq_false_iff_not] at hroom
    refine ⟨hpos, ?_⟩
    simp only [qPush_q, List.length_append, List.length_singleton]
    omega

theorem inv_switchcmd (r : Request) (h : Inv s) : ∃ t, execSwitchcmd r s = .next t ∧ Inv t := by
  obtain ⟨hqueue, hseq⟩ := txOk_of_inv h
  unfold execSwitchcmd
  split_ifs with hfault hlen hfull
  · exact ⟨_, rfl, inv_emit _ h⟩
  · exact ⟨_, rfl, inv_emit _ h⟩
  · exact ⟨_, rfl, inv_emit _ (inv_of_txOnly h (by simpa using hfault) (raiseErr_txOnly (by decide) s) ⟨hqueue, hseq⟩)⟩
  · have hpush := qPush_queueOk (by simpa using hlen) (by simpa using hfull) hqueue
    exact ⟨_, rfl, inv_emit _ (inv_of_txOnly h (by simpa using hfault) ⟨rfl, id, id, id⟩ ⟨hpush, hseq⟩)⟩

theorem inv_drainAnswer (ok : Bool) (h : Inv s) : Inv (drainAnswer ok s) := by
  have htx := txOk_of_inv h
  have hw := drainAnswer_txOnly ok s
  obtain hsame | ⟨hf, -, hlatch⟩ := drainAnswer_cases ok s
  · rwa [hsame]
  · rw [hlatch] at hw ⊢
    exact inv_of_txOnly h hf hw htx

/-! ## Ticks -/

/-- A route character at the pointer stands within the request. -/
theorem currentDigit_isSome (h : (currentDigit s).isSome = true) : ∃ c d, curChar s = some c ∧ parseDigit c = some d := by
  obtain ⟨d, hd⟩ := Option.isSome_iff_exists.1 h
  obtain ⟨c, hc, hp⟩ := Option.bind_eq_some_iff.1 hd
  exact ⟨c, d, hc, hp⟩

/-- Where there is a route character, the step that the invariant speaks of is the one `BeginXmit` latches. -/
theorem pointerStep_of_currentDigit (h : (currentDigit s).isSome = true) :
    ∃ w, pointerStep s = some w ∧ (curChar s).bind (encodeStep · (outputIndex s)) = some w := by
  obtain ⟨c, d, hc, hp⟩ := currentDigit_isSome h
  refine ⟨_, pointerStep_of_char (curChar_eq_some.1 hc).2 hp, ?_⟩
  rw [hc]
  exact encodeStep_eq_some.2 ⟨d, hp, rfl⟩

/-- A queue of which some requests at the head are gone is as good as before. -/
theorem queueOk_of_suffix {gone : List Request} (hq : s.q = gone ++ t.q) (hdepth : t.qDepth = s.qDepth) (h : queueOk s) : queueOk t := by
  obtain ⟨hlens, hle⟩ := h
  refine ⟨fun r hr => hlens r (by simp [hq, hr]), fun d hd => ?_⟩
  obtain ⟨hpos, hlen⟩ := hle d (hdepth ▸ hd)
  rw [hq, List.length_append] at hlen
  exact ⟨hpos, by omega⟩

/-- `Advance` needs the ranges of the registers only, and restores what holds in each running state (43_command_sequencer.md R175). -/
theorem advance_txOk (hidx : s.idx.toNat ≤ 4) (hlen : s.curLen.toNat ≤ 4) (htimer : s.timer.toNat ≤ 500) (hqueue : queueOk s) :
    txOk (advance s) := by
  obtain ⟨t, ht, hend, ⟨gone, hgone⟩, hlen', hidx'⟩ := advanceOver_spec s.q s hlen rfl hqueue.1
  have ht : advance s = t := ht
  have hdepth : (advance s).qDepth = s.qDepth := (congrArg State.qDepth (advance_txOnly s).frame :)
  rw [ht] at hdepth ⊢
  refine ⟨queueOk_of_suffix hgone hdepth hqueue, hidx' hidx, hlen', ?_⟩
  obtain ⟨hs, h0, hdigit⟩ | ⟨hs, -, hkeep⟩ := hend
  · simp [hs, h0, hdigit]
  · simp [hs, hkeep, htimer]

theorem startRequest_txOk (h : txOk s) : txOk (startRequest s) := by
  unfold startRequest
  split
  · exact h
  · rename_i r waiting hq
    obtain ⟨hqueue, -, -, htimer, -⟩ := h
    have hload : queueOk (loadRequest r waiting s) := queueOk_of_suffix (gone := [r]) hq rfl hqueue
    exact advance_txOk (by simp) (hqueue.1 r (by simp [hq])) htimer hload

/-- The step that `BeginXmit` latches is the one of the route character at the pointer (43_command_sequencer.md R180). -/
theorem beginXmit_txOk (hidx : s.idx.toNat ≤ 4) (hlen : s.curLen.toNat ≤ 4) (hdigit : (currentDigit s).isSome = true)
    (hqueue : queueOk s) : txOk (beginXmit s) := by
  obtain ⟨w, hw, hencode⟩ := pointerStep_of_currentDigit hdigit
  rw [beginXmit_of_step hw]
  exact ⟨hqueue, hidx, hlen, by simp, fun _ => hdigit, nofun, fun _ => ⟨by simp, hencode⟩⟩

/-- A tick of the settle delay counts, and the 500th begins the transmission (43_command_sequencer.md R179). -/
theorem settleTick_txOk (hs : s.seqState = .settle) (h : txOk s) : txOk (settleTick s) := by
  obtain ⟨hqueue, hidx, hlen, -, hdigit, hsettle, -⟩ := h
  have hlt : s.timer.toNat < 500 := hsettle hs
  have hdigit : (currentDigit s).isSome = true := hdigit (by simp [hs])
  by_cases hlast : s.timer.toNat = 499
  · rw [settleTick_begin hlast]
    exact beginXmit_txOk (s := { s with timer := s.timer + 1 }) hidx hlen hdigit hqueue
  · have hsucc := timer_succ hlt
    have hbelow : (s.timer + 1).toNat < 500 := by omega
    have hne : s.seqState ≠ .xmit := by simp [hs]
    rw [settleTick_count (by omega)]
    exact ⟨hqueue, hidx, hlen, hbelow.le, fun _ => hdigit, fun _ => hbelow, fun hx => absurd hx hne⟩

/-- A tick in `XMIT` counts up to T+250, where the drain is requested (43_command_sequencer.md R181). -/
theorem xmitTick_cases (h : s.timer.toNat < 250) :
    s.timer.toNat = 249 ∧ xmitTick s = drainRequest { s with timer := s.timer + 1 } ∨
    s.timer.toNat < 249 ∧ ∃ os w, xmitTick s = { s with timer := s.timer + 1, outs := os, errWrite := w } := by
  by_cases hlast : s.timer.toNat = 249
  · exact .inl ⟨hlast, xmitTick_drain hlast⟩
  · refine .inr ⟨by omega, ?_⟩
    by_cases hk : ∃ k : Fin 4, 1 ≤ k.val ∧ s.timer.toNat + 1 = k.val * 50
    · obtain ⟨k, hk1, hk⟩ := hk
      exact ⟨_, _, xmitTick_write k hk1 hk⟩
    · refine ⟨_, _, xmitTick_silent (by omega) fun hmem => hk ?_⟩
      obtain h1 | h2 | h3 : s.timer.toNat + 1 = 50 ∨ s.timer.toNat + 1 = 100 ∨ s.timer.toNat + 1 = 150 := by simpa using hmem
      · exact ⟨1, by simp, by simpa using h1⟩
      · exact ⟨2, by simp, by simpa using h2⟩
      · exact ⟨3, by simp, by simpa using h3⟩

theorem xmitTick_txOk (hs : s.seqState = .xmit) (h : txOk s) : txOk (xmitTick s) := by
  obtain ⟨hqueue, hidx, hlen, -, hdigit, -, hxmit⟩ := h
  obtain ⟨hlt, hwire⟩ := hxmit hs
  have hlt : s.timer.toNat < 250 := hlt
  have hdigit : (currentDigit s).isSome = true := hdigit (by simp [hs])
  have hsucc := timer_succ (s := s) (by omega)
  have hle : (s.timer + 1).toNat ≤ 500 := by omega
  obtain ⟨-, hdrain⟩ | ⟨hbefore, os, w, hcount⟩ := xmitTick_cases hlt
  · rw [hdrain]
    exact ⟨hqueue, hidx, hlen, hle, fun _ => hdigit, nofun, nofun⟩
  · have hbelow : (s.timer + 1).toNat < 250 := by omega
    have hne : s.seqState ≠ .settle := by simp [hs]
    rw [hcount]
    exact ⟨hqueue, hidx, hlen, hle, fun _ => hdigit, fun hx => absurd hx hne, fun _ => ⟨hbelow, hwire⟩⟩

/-- The end of a step passes on from its route character, so `IDX` stays within the request (43_command_sequencer.md R184). -/
theorem endStep_txOk (hs : s.seqState ≠ .idle) (h : txOk s) : txOk (endStep s) := by
  obtain ⟨hqueue, -, hlen, htimer, hdigit, -⟩ := h
  obtain ⟨c, d, hc, -⟩ := currentDigit_isSome (hdigit hs)
  have hidx := nextChar_idx_toNat hc
  have hlt := (curChar_index hc).2
  exact advance_txOk (by omega) hlen htimer hqueue

theorem drainTick_txOk (hs : s.seqState = .drain) (h : txOk s) : txOk (drainTick s) := by
  have hne : s.seqState ≠ .idle := by simp [hs]
  unfold drainTick
  split_ifs
  · exact endStep_txOk hne h
  · exact endStep_txOk (s := raiseErr .eDrain s) hne h
  · exact h

/-- The action of a tick keeps the invariant in each state of the sequencer (43_command_sequencer.md R173). -/
theorem inv_tick (h : Inv s) : ∃ t, exec (tickInstr s) s = .next t ∧ Inv t := by
  have acts {v : State} (hw : TxOnly s v) (htx : txOk v) : Inv (whenUsable s v) :=
    inv_whenUsable h fun hf => inv_of_txOnly h hf hw htx
  have htx := txOk_of_inv h
  cases hs : s.seqState <;> simp only [tickInstr, hs] <;> refine ⟨_, rfl, ?_⟩ <;> rw [if_pos hs]
  case idle => exact acts (startRequest_txOnly s) (startRequest_txOk htx)
  case settle => exact acts (settleTick_txOnly s) (settleTick_txOk hs htx)
  case xmit => exact acts (xmitTick_txOnly s) (xmitTick_txOk hs htx)
  case drain => exact acts (drainTick_txOnly s) (drainTick_txOk hs htx)

/-! ## Every step -/

/-- The next event of a clock edge keeps the invariant, whichever it is (60_exceptions.md R236). -/
theorem inv_event (h : Inv s) (hs : s.inputs = .edge e :: rest) (hn : nextEvent e = some (ev, left)) : ∃ t, step s = .next t ∧ Inv t := by
  have hu : Inv (takeEvent e left rest s) := inv_takeEvent h hs
  cases ev with
  | reset st =>
    obtain ⟨-, -, -, ⟨-, hdepth⟩, -, -, hedges⟩ := hu
    have hreset := resetWith_inv st (freeValues s.freeCtr) (freeValues_curLen _) hedges (fun d hd => (hdepth d hd).1)
    exact ⟨_, step_of_eventInstr hs hn rfl, hreset⟩
  | getStatus => exact ⟨_, step_of_eventInstr hs hn rfl, inv_emit _ hu⟩
  | rxByte b =>
    obtain hstep | ⟨b', hstep⟩ := step_rxByte hs hn
    · exact ⟨_, hstep, hu⟩
    · exact ⟨_, hstep, inv_rxByte b' hu⟩
  | switchCmd r =>
    obtain ⟨t, ht, hinv⟩ := inv_switchcmd r hu
    exact ⟨t, (step_of_eventInstr hs hn rfl).trans ht, hinv⟩
  | drainDone ok => exact ⟨_, step_of_no_instr hs hn rfl, inv_drainAnswer ok hu⟩
  | tick =>
    obtain ⟨t, ht, hinv⟩ := inv_tick hu
    exact ⟨t, (step_of_eventInstr hs hn rfl).trans ht, hinv⟩

/-- Settles O59: a step without inputs or on an edge without events changes no register, and every event keeps the invariant. -/
theorem everyStepKeepsInvariant : Obligations.EveryStepKeepsInvariant := by
  intro s h
  obtain ⟨-, -, -, -, -, -, hedges⟩ := id h
  cases hs : s.inputs with
  | nil => exact ⟨s, step_of_no_inputs hs, h⟩
  | cons x rest =>
    cases x with
    | edge e =>
      cases hn : nextEvent e with
      | none => exact ⟨_, step_of_no_event hs hn, inv_with_inputs h (fun x hx => hedges x (by simp [hs, hx])) s.txFail⟩
      | some p => exact inv_event h hs hn
    | char | word | op =>
      have hown := hedges _ (by rw [hs]; exact List.mem_cons_self)
      cases hown

end Sys2Proof.Machine
end

section
/-!
PROOFS. The byte streams (20_memory.md): a frame that holds the marker value is split and never installed, and the TX stream stays whole
four-byte steps followed by the written part of the current one.
-/
namespace Sys2Proof.Machine

variable {s t : State} {e left : Edge} {ev : Event} {rest : List Input}

/-! ## A frame that holds the marker value (20_memory.md R68) -/

/-- `ST_VALID` and the status registers. -/
def statusRegisters (s : State) : Bool × DeviceStatus :=
  (s.stValid, { mem := s.stMem, route := s.stRoute, inp := s.stIn, out := s.stOut, power := s.stPower })

/-- A synchronised receive path under the marker `m`, with at most `n` bytes in the current candidate. -/
structure Receiving (m : Byte) (n : Nat) (s : State) : Prop where
  usable : s.cfgFault = false
  label : marker s.cfgLabel = some m
  synced : s.rxSynced = true
  count : s.rxCnt.toNat ≤ n

theorem rxByte_of_marker {m : Byte} (hf : s.cfgFault = false) (hm : marker s.cfgLabel = some m) : rxByte m s = rxMarker s := by
  simp [rxByte, hf, hm]

theorem rxByte_of_data {m b : Byte} (hf : s.cfgFault = false) (hm : marker s.cfgLabel = some m) (hb : b ≠ m) :
    rxByte b s = rxData b s := by
  simp [rxByte, hf, hm, hb.symm]

/-- A marker opens an empty candidate, whatever the receive path held before (40_frame_decoder.md R110). -/
theorem rxByte_marker_receiving {m : Byte} (hf : s.cfgFault = false) (hm : marker s.cfgLabel = some m) :
    Receiving m 0 (rxByte m s) := by
  have hframe := rxByte_frame m s
  have hfault := congrArg State.cfgFault hframe
  have hlabel := congrArg State.cfgLabel hframe
  refine ⟨hfault.trans hf, (congrArg marker hlabel).trans hm, ?_, ?_⟩ <;> rw [rxByte_of_marker hf hm]
  · rfl
  · exact Nat.le_refl 0

/-- A marker before the thirteenth byte installs nothing (40_frame_decoder.md R110). -/
theorem rxByte_marker_statusRegisters {m : Byte} {n : Nat} (h : Receiving m n s) (hn : n < 13) :
    statusRegisters (rxByte m s) = statusRegisters s := by
  have hcount := h.count
  rw [rxByte_of_marker h.usable h.label, rxMarker_open (fun hfull => by omega)]
  rfl

/-- A data byte below the fourteenth makes the candidate one byte longer and installs nothing (40_frame_decoder.md R111). -/
theorem rxByte_data_receiving {m b : Byte} {n : Nat} (h : Receiving m n s) (hn : n < 13) (hb : b ≠ m) :
    Receiving m (n + 1) (rxByte b s) ∧ statusRegisters (rxByte b s) = statusRegisters s := by
  have hcount := h.count
  have hsucc : (s.rxCnt + 1).toNat ≤ n + 1 := by
    rw [BitVec.toNat_add]
    simp
    omega
  rw [rxByte_of_data h.usable h.label hb, rxData_store b h.synced (by omega)]
  exact ⟨⟨h.usable, h.label, h.synced, hsucc⟩, rfl⟩

/-- Bytes that do not fill a candidate beyond its thirteenth byte install nothing, whether there are markers among them or not. -/
theorem rxBytes_receiving {m : Byte} {n : Nat} (bs : List Byte) (h : Receiving m n s) (hn : n + bs.length ≤ 13) :
    Receiving m (n + bs.length) (rxBytes bs s) ∧ statusRegisters (rxBytes bs s) = statusRegisters s := by
  induction bs generalizing n s with
  | nil => exact ⟨h, rfl⟩
  | cons b bs ih =>
    rw [List.length_cons] at hn
    have hnext : Receiving m (n + 1) (rxByte b s) ∧ statusRegisters (rxByte b s) = statusRegisters s := by
      by_cases hb : b = m
      · subst hb
        obtain ⟨hf, hm, hsynced, hcount⟩ := rxByte_marker_receiving h.usable h.label
        exact ⟨⟨hf, hm, hsynced, by omega⟩, rxByte_marker_statusRegisters h (by omega)⟩
      · exact rxByte_data_receiving h (by omega) hb
    obtain ⟨hreceiving, hstatus⟩ := hnext
    obtain ⟨hend, hkept⟩ := ih hreceiving (by omega)
    rw [List.length_cons, ← Nat.add_assoc, Nat.add_right_comm]
    exact ⟨hend, hkept.trans hstatus⟩

/-- A frame row is its bytes between two markers (40_frame_decoder.md R113; log 12). -/
theorem exec_sf13 {m : Byte} (hm : marker s.cfgLabel = some m) (f : Vector Byte 13) :
    exec (.sf13 f) s = .next (rxBytes (f.toList ++ [m]) (rxByte m s)) := by
  show execSf13 f s = _
  simp [execSf13, hm, rxBytes]

/-- Settles O13: the marker value splits the frame into two candidates, both shorter than thirteen bytes. -/
theorem frameHoldingMarkerIsNeverInstalled : Obligations.FrameHoldingMarkerIsNeverInstalled := by
  rintro s u f m k hf hm hk rfl
  obtain ⟨before, behind, hsplit⟩ : ∃ before behind, f.toList = before ++ m :: behind :=
    List.append_of_mem (by rw [← hk]; simp)
  have hlen : before.length + behind.length + 1 = 13 := by
    have hlen := congrArg List.length hsplit
    simp only [Vector.length_toList, List.length_append, List.length_cons] at hlen
    omega
  obtain ⟨hfirst, hfirstStatus⟩ := rxBytes_receiving before (rxByte_marker_receiving hf hm) (by omega)
  have hmiddle := rxByte_marker_receiving hfirst.usable hfirst.label
  have hmiddleStatus := rxByte_marker_statusRegisters hfirst (by omega)
  obtain ⟨hsecond, hsecondStatus⟩ := rxBytes_receiving behind hmiddle (by omega)
  have hlast := rxByte_marker_receiving hsecond.usable hsecond.label
  have hlastStatus := rxByte_marker_statusRegisters hsecond (by omega)
  have hstatus := hlastStatus.trans (hsecondStatus.trans (hmiddleStatus.trans hfirstStatus))
  refine ⟨_, exec_sf13 hm f, ?_⟩
  rw [hsplit, List.append_assoc, rxBytes_append, List.cons_append, rxBytes, rxBytes_append, rxBytes, rxBytes]
  simp only [statusRegisters, Prod.mk.injEq, DeviceStatus.mk.injEq] at hstatus
  obtain ⟨hvalid, hmem, hroute, hinp, hout, hpower⟩ := hstatus
  exact ⟨hvalid, hmem, hroute, hinp, hout, hpower, hlast.synced, BitVec.eq_of_toNat_eq (Nat.le_zero.1 hlast.count)⟩

/-! ## The bytes on the TX stream and the step under way -/

@[simp] theorem txBytes_append (os os' : List Output) : txBytes (os ++ os') = txBytes os ++ txBytes os' := List.filterMap_append

@[simp] theorem txBytes_writeOutputs (b : Byte) (fails : Bool) : txBytes (writeOutputs b fails) = [b] := by
  cases fails <;> rfl

theorem writtenOfStep_of_xmit (h : s.seqState = .xmit) : writtenOfStep s = s.wire.toList.take (s.timer.toNat / 50 + 1) := if_pos h

theorem writtenOfStep_of_not_xmit (h : s.seqState ≠ .xmit) : writtenOfStep s = [] := if_neg h

/-- The TX stream stays whole when the bytes written complete the step under way to whole steps and the written part of the next. -/
theorem txStreamWhole_of_written (h : txStreamWhole s) {bytes : List Byte} (houts : txBytes t.outs = txBytes s.outs ++ bytes)
    (cmds : List Byte) (hwritten : writtenOfStep s ++ bytes = cmds.flatMap stepBytes ++ writtenOfStep t) : txStreamWhole t := by
  obtain ⟨whole, hwhole⟩ := h
  refine ⟨whole ++ cmds, ?_⟩
  rw [houts, hwhole, List.append_assoc, hwritten, List.flatMap_append, List.append_assoc]

/-- The step under way and the TX stream are the same in both states. -/
abbrev TxStreamKept (s t : State) : Prop :=
  t.seqState = s.seqState ∧ t.timer = s.timer ∧ t.wire = s.wire ∧ txBytes t.outs = txBytes s.outs

theorem txStreamWhole_of_kept (hk : TxStreamKept s t) (h : txStreamWhole s) : txStreamWhole t := by
  obtain ⟨hseq, htimer, hwire, houts⟩ := hk
  exact txStreamWhole_of_written h (bytes := []) (by simpa using houts) [] (by simp [writtenOfStep, hseq, htimer, hwire])

/-- Outside `XMIT` no step is under way. -/
theorem txStreamWhole_of_not_xmit (hs : s.seqState ≠ .xmit) (ht : t.seqState ≠ .xmit) (houts : txBytes t.outs = txBytes s.outs)
    (h : txStreamWhole s) : txStreamWhole t :=
  txStreamWhole_of_written h (bytes := []) (by simpa using houts) []
    (by simp [writtenOfStep_of_not_xmit hs, writtenOfStep_of_not_xmit ht])

theorem txStreamWhole_whenUsable (h : txStreamWhole s) (ht : txStreamWhole t) : txStreamWhole (whenUsable s t) := by
  unfold whenUsable
  split
  · exact h
  · exact ht

/-! ## The events without a write -/

theorem rxByte_txStreamKept (b : Byte) (s : State) : TxStreamKept s (rxByte b s) := by
  have hframe := rxByte_frame b s
  have hseq := congrArg State.seqState hframe
  have htimer := congrArg State.timer hframe
  have hwire := congrArg State.wire hframe
  have houts := congrArg State.outs hframe
  exact ⟨hseq, htimer, hwire, congrArg txBytes houts⟩

theorem execSwitchcmd_txStreamKept (r : Request) (s : State) : ∃ t, execSwitchcmd r s = .next t ∧ TxStreamKept s t := by
  unfold execSwitchcmd
  split_ifs <;> exact ⟨_, rfl, rfl, rfl, rfl, by simp [raiseErr_eq, txBytes]⟩

theorem drainAnswer_txStreamKept (ok : Bool) (s : State) : TxStreamKept s (drainAnswer ok s) := by
  obtain hsame | ⟨-, -, hlatch⟩ := drainAnswer_cases ok s
  · rw [hsame]
    exact ⟨rfl, rfl, rfl, rfl⟩
  · rw [hlatch]
    exact ⟨rfl, rfl, rfl, rfl⟩

/-- An event that is no tick and no `Reset` leaves the step under way and the TX stream alone (43_command_sequencer.md R187). -/
theorem step_txStreamKept (h : s.inputs = .edge e :: rest) (hn : nextEvent e = some (ev, left)) (hreset : ∀ st, ev ≠ .reset st)
    (htick : ev ≠ .tick) : ∃ t, step s = .next t ∧ TxStreamKept s t := by
  cases ev with
  | reset st => exact absurd rfl (hreset st)
  | tick => exact absurd rfl htick
  | getStatus => exact ⟨_, step_of_eventInstr h hn rfl, rfl, rfl, rfl, by simp [txBytes]⟩
  | rxByte b =>
    obtain hs | ⟨b', hs⟩ := step_rxByte h hn
    · exact ⟨_, hs, rfl, rfl, rfl, rfl⟩
    · exact ⟨_, hs, rxByte_txStreamKept b' (takeEvent e left rest s)⟩
  | switchCmd r =>
    obtain ⟨t, ht, hk⟩ := execSwitchcmd_txStreamKept r (takeEvent e left rest s)
    exact ⟨t, (step_of_eventInstr h hn rfl).trans ht, hk⟩
  | drainDone ok => exact ⟨_, step_of_no_instr h hn rfl, drainAnswer_txStreamKept ok (takeEvent e left rest s)⟩

/-! ## Ticks -/

theorem advance_outs (s : State) : (advance s).outs = s.outs := by
  obtain ⟨q, l, cs, i, u, st, hadv⟩ := advanceOver_frame s.q s
  exact (congrArg State.outs hadv :)

theorem advance_not_xmit (s : State) : (advance s).seqState ≠ .xmit := by
  obtain hs | hs := advanceOver_seqState s.q s <;> rw [advance, hs] <;> decide

theorem startRequest_txStreamWhole (hs : s.seqState = .idle) (h : txStreamWhole s) : txStreamWhole (startRequest s) := by
  unfold startRequest
  split
  · exact h
  · exact txStreamWhole_of_not_xmit (by simp [hs]) (advance_not_xmit _) (by rw [advance_outs, loadRequest_outs]) h

/-- The last tick of the settle delay puts byte 0 of the step on the stream (43_command_sequencer.md R180). -/
theorem settleTick_txStreamWhole (hs : s.seqState = .settle) (hlt : s.timer.toNat < 500) (h : txStreamWhole s) :
    txStreamWhole (settleTick s) := by
  have hne : s.seqState ≠ .xmit := by simp [hs]
  by_cases hlast : s.timer.toNat = 499
  · obtain ⟨w, n, -, hbegin⟩ := beginXmit_eq { s with timer := s.timer + 1 }
    rw [settleTick_begin hlast, hbegin]
    refine txStreamWhole_of_written h (bytes := [w[0]]) (by simp) [] ?_
    rw [writtenOfStep_of_not_xmit hne, writtenOfStep_of_xmit rfl]
    simp [List.take_one, List.head?_eq_getElem?]
  · rw [settleTick_count (by omega)]
    exact txStreamWhole_of_not_xmit hne hne rfl h

/-- The next wire byte makes the written part of a step one byte longer. -/
theorem take_wire_succ (w : Vector Byte 4) (k : Fin 4) : w.toList.take k.val ++ [w[k]] = w.toList.take (k.val + 1) := by
  rw [List.take_succ_eq_append_getElem (by simp)]
  simp

/-- Between the writes the written part of a step stays the same (43_command_sequencer.md R181). -/
theorem take_wire_silent (w : Vector Byte 4) {n : Nat} (hn : n + 1 ∉ [50, 100, 150]) (hlt : n + 1 < 250) :
    w.toList.take (n / 50 + 1) = w.toList.take ((n + 1) / 50 + 1) := by
  simp only [List.mem_cons, List.not_mem_nil, or_false, not_or] at hn
  obtain hsame | hall : (n + 1) / 50 = n / 50 ∨ 3 ≤ n / 50 ∧ 3 ≤ (n + 1) / 50 := by omega
  · rw [hsame]
  · rw [List.take_of_length_le (by simp; omega), List.take_of_length_le (by simp; omega)]

/-- T+50, T+100 and T+150 are the ticks of wire bytes 1, 2 and 3 (43_command_sequencer.md R181). -/
theorem wireIndex_of_tick {n : Nat} (hn : n ∈ [50, 100, 150]) : ∃ k : Fin 4, 1 ≤ k.val ∧ n = k.val * 50 := by
  simp only [List.mem_cons, List.not_mem_nil, or_false] at hn
  refine ⟨⟨n / 50, by omega⟩, ?_, ?_⟩
  · show 1 ≤ n / 50
    omega
  · show n = n / 50 * 50
    omega

/-- A tick in `XMIT` puts the next byte of the step on the stream at T+50, T+100 and T+150; at T+250 the step is whole
(43_command_sequencer.md R181, R183). -/
theorem xmitTick_txStreamWhole {v : Byte} (hs : s.seqState = .xmit) (hlt : s.timer.toNat < 250) (hwire : s.wire = wireStep v)
    (h : txStreamWhole s) : txStreamWhole (xmitTick s) := by
  have hbefore := writtenOfStep_of_xmit hs
  have hafter (os : List Output) (w : Bool) :
      writtenOfStep { s with timer := s.timer + 1, outs := os, errWrite := w } = s.wire.toList.take ((s.timer.toNat + 1) / 50 + 1) := by
    rw [← timer_succ (by omega)]
    exact writtenOfStep_of_xmit hs
  by_cases hlast : s.timer.toNat = 249
  · have hall : writtenOfStep s = stepBytes v := by
      rw [hbefore, hlast, hwire, wireStep_toList]
      rfl
    rw [xmitTick_drain hlast]
    refine txStreamWhole_of_written h (bytes := []) (by simp [txBytes]) [v] ?_
    rw [hall, writtenOfStep_of_not_xmit (by simp)]
    simp
  by_cases hwrite : s.timer.toNat + 1 ∈ [50, 100, 150]
  · obtain ⟨k, hk1, hk⟩ := wireIndex_of_tick hwrite
    have hcount : s.timer.toNat / 50 + 1 = k.val := by omega
    rw [xmitTick_write k hk1 hk]
    refine txStreamWhole_of_written h (bytes := [s.wire[k]]) (by simp) [] ?_
    rw [hbefore, hafter, hcount, hk, Nat.mul_div_cancel _ (by decide)]
    exact take_wire_succ s.wire k
  · rw [xmitTick_silent (by omega) hwrite]
    refine txStreamWhole_of_written h (bytes := []) (by simp) [] ?_
    rw [hbefore, hafter, List.append_nil]
    exact take_wire_silent s.wire hwrite (by omega)

theorem drainTick_txStreamWhole (hs : s.seqState = .drain) (h : txStreamWhole s) : txStreamWhole (drainTick s) := by
  have hne : s.seqState ≠ .xmit := by simp [hs]
  unfold drainTick
  split_ifs
  · exact txStreamWhole_of_not_xmit hne (advance_not_xmit _) (by rw [endStep, advance_outs, nextChar_outs]) h
  · exact txStreamWhole_of_not_xmit hne (advance_not_xmit _)
      (by rw [endStep, advance_outs, nextChar_outs, raiseErr_eq]; simp [txBytes]) h
  · exact h

/-- The wire bytes that the invariant gives in `XMIT` are one step. -/
theorem wire_of_sequencerOk (h : sequencerOk s) (hs : s.seqState = .xmit) : s.timer.toNat < 250 ∧ ∃ v, s.wire = wireStep v := by
  obtain ⟨-, -, -, -, -, hxmit⟩ := h
  obtain ⟨hlt, hencode⟩ := hxmit hs
  obtain ⟨c, -, hstep⟩ := Option.bind_eq_some_iff.1 hencode
  obtain ⟨d, -, hwire⟩ := encodeStep_eq_some.1 hstep
  exact ⟨hlt, _, hwire⟩

/-- The action of a tick keeps the TX stream whole in each state of the sequencer (43_command_sequencer.md R173). -/
theorem txStreamWhole_tick (hseq : sequencerOk s) (h : txStreamWhole s) : ∃ t, exec (tickInstr s) s = .next t ∧ txStreamWhole t := by
  cases hs : s.seqState <;> simp only [tickInstr, hs] <;> refine ⟨_, rfl, ?_⟩ <;> rw [if_pos hs] <;> apply txStreamWhole_whenUsable h
  case idle => exact startRequest_txStreamWhole hs h
  case settle =>
    obtain ⟨-, -, -, -, hsettle, -⟩ := hseq
    exact settleTick_txStreamWhole hs (hsettle hs) h
  case xmit =>
    obtain ⟨hlt, v, hwire⟩ := wire_of_sequencerOk hseq hs
    exact xmitTick_txStreamWhole hs hlt hwire h
  case drain => exact drainTick_txStreamWhole hs h

/-- The next event of a clock edge without a reset keeps the TX stream whole, whichever it is (60_exceptions.md R236). -/
theorem txStreamWhole_event (hseq : sequencerOk s) (h : txStreamWhole s) (hs : s.inputs = .edge e :: rest) (hr : e.reset = none)
    (hn : nextEvent e = some (ev, left)) : ∃ t, step s = .next t ∧ txStreamWhole t := by
  by_cases htick : ev = .tick
  · subst htick
    obtain ⟨t, ht, hwhole⟩ := txStreamWhole_tick (s := takeEvent e left rest s) hseq h
    exact ⟨t, (step_of_eventInstr hs hn rfl).trans ht, hwhole⟩
  · have hreset : ∀ st, ev ≠ .reset st := by
      rintro st rfl
      obtain ⟨st', -, hr'⟩ | ⟨hq, -⟩ | ⟨ok, hev, -⟩ | ⟨hev, -⟩ := nextEvent_cases hn
      · cases hr.symm.trans hr'
      · cases hq
      · cases hev
      · cases hev
    obtain ⟨t, ht, hk⟩ := step_txStreamKept hs hn hreset htick
    exact ⟨t, ht, txStreamWhole_of_kept hk h⟩

/-- Settles O60: only a tick writes, and it writes the next byte of the step in `WIRE`. -/
theorem txStreamStaysWhole : Obligations.TxStreamStaysWhole := by
  intro s t hinv hnoReset h ht
  obtain ⟨-, -, -, -, hseq, -, hedges⟩ := hinv
  cases hs : s.inputs with
  | nil =>
    cases ht.symm.trans (step_of_no_inputs hs)
    exact h
  | cons x rest =>
    have hx : x ∈ s.inputs := by simp [hs]
    cases x with
    | edge e =>
      cases hn : nextEvent e with
      | none =>
        cases ht.symm.trans (step_of_no_event hs hn)
        exact h
      | some p =>
        obtain ⟨t', ht', hwhole⟩ := txStreamWhole_event hseq h hs (Option.isNone_iff_eq_none.1 (hnoReset _ hx)) hn
        cases ht.symm.trans ht'
        exact hwhole
    | char | word | op => cases hedges _ hx

end Sys2Proof.Machine
end

section
/-!
PROOFS. The encoding (30_encoding.md): for each stream, which bytes the decoder reads as an instruction, in both directions; from these
the round trips, the words of the tables, the classes of a byte, and the completion of every row.
-/
namespace Sys2Proof

variable {i : Instr} {label : BitVec 2} {synced : Bool} {b c : Byte} {bytes rest : List Byte}

/-! ## What the decoder takes from each stream -/

theorem decode_rxb_eq_ok_iff :
    decode (.rxb label synced) bytes = .ok (i, rest) ↔ ∃ b, bytes = b :: rest ∧ decodeRxb label synced b = .ok i := by
  cases bytes with
  | nil => simp [decode]
  | cons b tail => cases h : decodeRxb label synced b <;> simp [decode_rxb, h, Except.map, and_comm]

theorem decode_rqc_eq_ok_iff : decode .rqc bytes = .ok (i, rest) ↔ ∃ c, bytes = c :: rest ∧ decodeRqc c = i := by
  cases bytes with
  | nil => simp [decode]
  | cons c tail => simp [decode_rqc, and_comm]

theorem decode_ws4Bytes (cmd comp : Byte) (rest : List Byte) :
    decode .ws4 (ws4Bytes cmd comp ++ rest) = .ok (decodeWs4 cmd comp, rest) := rfl

theorem decode_ws4_eq_ok_iff :
    decode .ws4 bytes = .ok (i, rest) ↔ ∃ cmd comp, bytes = ws4Bytes cmd comp ++ rest ∧ decodeWs4 cmd comp = i := by
  constructor
  · intro h
    match bytes, h with
    | [], h | [_], h | [_, _], h | [_, _, _], h => cases h
    | cmd :: comp :: t0 :: t1 :: tail, h =>
      rw [decode_ws4] at h
      split at h
      case isTrue ht =>
        obtain ⟨rfl, rfl⟩ := ht
        cases h
        exact ⟨cmd, comp, rfl, rfl⟩
      case isFalse => cases h
  · rintro ⟨cmd, comp, rfl, rfl⟩
    exact decode_ws4Bytes cmd comp rest

theorem decode_sf13_eq_ok_iff :
    decode .sf13 bytes = .ok (i, rest) ↔ ∃ f : Vector Byte 13, bytes = f.toList ++ rest ∧ .sf13 f = i := by
  constructor
  · intro h
    unfold decode at h
    split at h
    case h_4 =>
      cases h
      exact ⟨_, rfl, rfl⟩
    all_goals contradiction
  · rintro ⟨f, rfl, rfl⟩
    exact decode_sf13 f rest

/-! ## Received bytes (30_encoding.md R88) -/

theorem decodeRxb_top (synced : Bool) : decodeRxb Config.labelTop synced Config.markerTop = .ok .rxMarkerTop := rfl

theorem decodeRxb_bottom (synced : Bool) : decodeRxb Config.labelBottom synced Config.markerBottom = .ok .rxMarkerBottom := rfl

/-- Under a known label a byte that is not the marker is a data byte, of the row that `RX_SYNCED` selects (R95(a)). -/
theorem rowApplies_data {m : Byte} (hm : marker label = some m) (hb : b ≠ m) :
    Instr.rowApplies label synced (if synced then .rxDataSynced b else .rxDataUnsynced b) = true := by
  cases synced <;> simp [Instr.rowApplies, hm, hb.symm]

/-- A byte is decoded to the received-byte row that applies and is written as that byte. -/
theorem decodeRxb_eq_ok_iff : decodeRxb label synced b = .ok i ↔ i.rowApplies label synced = true ∧ encode i = some [b] := by
  constructor
  · intro h
    cases hm : marker label with
    | none => simp [decodeRxb, hm] at h
    | some m =>
      by_cases hb : b = m
      · obtain ⟨rfl, rfl⟩ | ⟨rfl, rfl⟩ := Machine.marker_known hm <;> subst hb <;> cases h <;> exact ⟨rfl, rfl⟩
      · rw [decodeRxb_data synced hm hb] at h
        cases h
        exact ⟨rowApplies_data hm hb, by cases synced <;> rfl⟩
  · rintro ⟨happlies, hbytes⟩
    cases i with
    | rxMarkerTop =>
      cases hbytes
      obtain rfl : label = Config.labelTop := by simpa [Instr.rowApplies] using happlies
      exact decodeRxb_top synced
    | rxMarkerBottom =>
      cases hbytes
      obtain rfl : label = Config.labelBottom := by simpa [Instr.rowApplies] using happlies
      exact decodeRxb_bottom synced
    | rxDataSynced b' | rxDataUnsynced b' =>
      cases hbytes
      simp only [Instr.rowApplies, Bool.and_eq_true, Option.isSome_iff_exists, bne_iff_ne] at happlies
      obtain ⟨⟨hsynced, m, hm⟩, hb⟩ := happlies
      rw [decodeRxb_data synced hm (fun e => hb (by rw [hm, e]))]
      simpa using hsynced
    | _ => cases happlies

theorem format_of_rowApplies (h : i.rowApplies label synced = true) : i.format = .rxb := by
  cases i with
  | rxMarkerTop | rxMarkerBottom | rxDataSynced | rxDataUnsynced => rfl
  | _ => cases h

/-- The rows of the one-byte languages are written as one byte (30_encoding.md R80). -/
theorem encode_byte (h : i.format = .rxb ∨ i.format = .rqc) : ∃ b, encode i = some [b] := by
  cases i with
  | rxMarkerTop | rxMarkerBottom | rxDataSynced | rxDataUnsynced => exact ⟨_, rfl⟩
  | skip | route1 | route2 | route3 | route4 | route5 | route6 | route7 | route8 | route9 | skipinv => exact ⟨_, rfl⟩
  | _ => simp [Instr.format] at h

/-! ## Request characters (30_encoding.md R82) -/

theorem wellFormed_decodeRqc : ∀ c : Byte, (decodeRqc c).wellFormed = true := by decide

/-- A character is decoded to the well-formed request row that is written as it. -/
theorem decodeRqc_eq_iff : decodeRqc c = i ↔ i.format = .rqc ∧ i.wellFormed = true ∧ encode i = some [c] := by
  constructor
  · rintro rfl
    obtain ⟨hbytes, hformat⟩ := encode_decodeRqc c
    exact ⟨hformat, wellFormed_decodeRqc c, hbytes⟩
  · rintro ⟨hformat, hwf, hbytes⟩
    cases i with
    | skipinv => cases hbytes; exact decodeRqc_unparseable hwf
    | skip | route1 | route2 | route3 | route4 | route5 | route6 | route7 | route8 | route9 => cases hbytes; rfl
    | _ => cases hformat

/-- `ROUTE d` for `d = k + 1`. -/
def routeRow (k : Fin 9) : Instr :=
  [Instr.route1, .route2, .route3, .route4, .route5, .route6, .route7, .route8, .route9][k.val]

theorem encode_routeRow : ∀ k : Fin 9, (routeRow k).format = .rqc ∧ (routeRow k).wellFormed = true ∧
    encode (routeRow k) = some [BitVec.ofNat 8 (0x31 + k.val)] := by decide

/-- The digit of `ROUTE d` is the distance of its character from '0'. -/
theorem decodeRqc_eq_routeRow_iff (k : Fin 9) : decodeRqc c = routeRow k ↔ c.toNat = 0x31 + k.val := by
  obtain ⟨hformat, hwf, hbytes⟩ := encode_routeRow k
  have hk : (BitVec.ofNat 8 (0x31 + k.val)).toNat = 0x31 + k.val := by rw [BitVec.toNat_ofNat]; omega
  simp [decodeRqc_eq_iff, hformat, hwf, hbytes, ← BitVec.toNat_inj, hk, eq_comm]

theorem mem_routeRows_iff :
    i ∈ [Instr.route1, .route2, .route3, .route4, .route5, .route6, .route7, .route8, .route9] ↔ ∃ k, i = routeRow k := by
  rw [List.mem_iff_get]
  exact exists_congr fun k => eq_comm

theorem decodeRqc_eq_skip_iff : decodeRqc c = .skip ↔ c = 0x78 := by
  simp [decodeRqc_eq_iff, Instr.format, Instr.wellFormed, encode, @eq_comm _ c]

theorem decodeRqc_eq_skipinv_iff : decodeRqc c = .skipinv c ↔ isUnparseable c = true := by
  simp [decodeRqc_eq_iff, Instr.format, Instr.wellFormed, encode]

/-! ## Wire steps (30_encoding.md R84, R85) -/

/-- A well-formed wire step is written as four bytes that are decoded to its row again. -/
theorem encode_ws4 (hformat : i.format = .ws4) (hwf : i.wellFormed = true) :
    ∃ cmd comp, encode i = some (ws4Bytes cmd comp) ∧ decodeWs4 cmd comp = i := by
  cases i with
  | ws4General cmd comp =>
    simp only [Instr.wellFormed, Bool.and_eq_true, decide_eq_true_eq] at hwf
    obtain ⟨⟨-, hlow⟩, -⟩ := hwf
    exact ⟨cmd, comp, rfl, decodeWs4_general fun _ => hlow⟩
  | ws4Out1In1 | ws4Out1In2 | ws4Out1In3 | ws4Out1In4 | ws4Out2In1 | ws4Out2In2 | ws4Out2In3 | ws4Out2In4
  | ws4Out3In1 | ws4Out3In2 | ws4Out3In3 | ws4Out3In4 | ws4Out4In1 | ws4Out4In2 | ws4Out4In3 | ws4Out4In4 => exact ⟨_, _, rfl, rfl⟩
  | _ => cases hformat

theorem eq_sf13_of_format (hformat : i.format = .sf13) : ∃ f, i = .sf13 f := by
  cases i with
  | sf13 f => exact ⟨f, rfl⟩
  | _ => cases hformat

/-! ## The round trips -/

/-- Settles O1, stream by stream: the bytes of the row are ones the decoder reads as it. -/
theorem encodeThenDecodeGivesInstruction : Obligations.EncodeThenDecodeGivesInstruction := by
  intro st i rest hwf hbelongs
  cases st with
  | rxb label synced =>
    simp only [Instr.belongsTo, Bool.and_eq_true] at hbelongs
    obtain ⟨-, happlies⟩ := hbelongs
    obtain ⟨b, hbytes⟩ := encode_byte (.inl (format_of_rowApplies happlies))
    exact ⟨_, hbytes, decode_rxb_eq_ok_iff.2 ⟨b, rfl, decodeRxb_eq_ok_iff.2 ⟨happlies, hbytes⟩⟩⟩
  | rqc =>
    have hformat : i.format = .rqc := by simpa [Instr.belongsTo] using hbelongs
    obtain ⟨c, hbytes⟩ := encode_byte (.inr hformat)
    exact ⟨_, hbytes, decode_rqc_eq_ok_iff.2 ⟨c, rfl, decodeRqc_eq_iff.2 ⟨hformat, hwf, hbytes⟩⟩⟩
  | ws4 =>
    obtain ⟨cmd, comp, hbytes, hdecode⟩ := encode_ws4 (by simpa [Instr.belongsTo] using hbelongs) hwf
    exact ⟨_, hbytes, decode_ws4_eq_ok_iff.2 ⟨cmd, comp, rfl, hdecode⟩⟩
  | sf13 =>
    obtain ⟨f, rfl⟩ := eq_sf13_of_format (by simpa [Instr.belongsTo] using hbelongs)
    exact ⟨_, rfl, decode_sf13 f rest⟩

/-- Settles O2, stream by stream: each row is written as the bytes it is read from. -/
theorem decodedInstructionEncodesToItsBytes : Obligations.DecodedInstructionEncodesToItsBytes := by
  intro st i bytes rest h
  cases st with
  | rxb label synced =>
    obtain ⟨b, rfl, hb⟩ := decode_rxb_eq_ok_iff.1 h
    obtain ⟨happlies, hbytes⟩ := decodeRxb_eq_ok_iff.1 hb
    exact ⟨by simp [Instr.belongsTo, format_of_rowApplies happlies, happlies], _, hbytes, rfl⟩
  | rqc =>
    obtain ⟨c, rfl, hc⟩ := decode_rqc_eq_ok_iff.1 h
    obtain ⟨hformat, -, hbytes⟩ := decodeRqc_eq_iff.1 hc
    exact ⟨by simp [Instr.belongsTo, hformat], _, hbytes, rfl⟩
  | ws4 =>
    obtain ⟨cmd, comp, rfl, rfl⟩ := decode_ws4_eq_ok_iff.1 h
    obtain ⟨hbytes, hformat⟩ := encode_decodeWs4 cmd comp
    exact ⟨by simp [Instr.belongsTo, hformat], _, hbytes, rfl⟩
  | sf13 =>
    obtain ⟨f, rfl, rfl⟩ := decode_sf13_eq_ok_iff.1 h
    exact ⟨rfl, _, rfl, rfl⟩

/-! ## The tables and the classes -/

/-- Settles O3: the wire steps by the decoder's equation for four bytes with the trailer, the single words by running the decoder. -/
theorem tableWordsDecodeAsListed : Obligations.TableWordsDecodeAsListed := by
  have hrows : ∀ k : Fin 16, decodeWs4 (BitVec.ofNat 8 k.val) (BitVec.ofNat 8 (255 - k.val)) =
      [Instr.ws4Out1In1, .ws4Out1In2, .ws4Out1In3, .ws4Out1In4, .ws4Out2In1, .ws4Out2In2, .ws4Out2In3, .ws4Out2In4,
        .ws4Out3In1, .ws4Out3In2, .ws4Out3In3, .ws4Out3In4, .ws4Out4In1, .ws4Out4In2, .ws4Out4In3, .ws4Out4In4][k.val] := by decide
  refine ⟨fun k rest => ?_, fun cmd comp rest h => ?_, rfl, rfl, rfl, rfl, rfl, rfl, rfl, rfl, rfl, rfl, by decide⟩
  · rw [← hrows k]
    exact decode_ws4Bytes _ _ rest
  · have hlow : comp = ~~~cmd → 0x10 ≤ cmd.toNat := by
      rintro rfl
      rw [BitVec.toNat_not] at h
      omega
    rw [← decodeWs4_general hlow]
    exact decode_ws4Bytes cmd comp rest

/-- Settles O4: the marker rows by the marker's value, the data rows by any other value under a known label. -/
theorem receivedByteClasses : Obligations.ReceivedByteClasses := by
  intro synced b rest
  have reads {label : BitVec 2} {i : Instr} (h : decodeRxb label synced b = .ok i) :
      decode (.rxb label synced) (b :: rest) = .ok (i, rest) := decode_rxb_eq_ok_iff.2 ⟨b, rfl, h⟩
  refine ⟨?_, fun hb => reads (decodeRxb_data synced rfl hb), ?_, fun hb => reads (decodeRxb_data synced rfl hb)⟩
  · rintro rfl
    exact reads (decodeRxb_top synced)
  · rintro rfl
    exact reads (decodeRxb_bottom synced)

/-- Settles O5: each class is the set of characters that its rows are written as. -/
theorem requestCharacterClasses : Obligations.RequestCharacterClasses := by
  intro c i rest h
  obtain ⟨c', hbytes, rfl⟩ := decode_rqc_eq_ok_iff.1 h
  cases hbytes
  refine ⟨decodeRqc_eq_skip_iff, ?_, ?_, fun k => ?_⟩
  · simp only [decodeRqc_eq_skipinv_iff, isUnparseable, Bool.and_eq_true, Bool.not_eq_true', ← Bool.decide_and, decide_eq_false_iff_not,
      bne_iff_ne, and_comm]
  · simp only [mem_routeRows_iff, decodeRqc_eq_routeRow_iff]
    constructor
    · rintro ⟨k, hk⟩
      omega
    · rintro ⟨hlow, hhigh⟩
      exact ⟨⟨c.toNat - 0x31, by omega⟩, by simp only; omega⟩
  · rw [← routeRow, decodeRqc_eq_routeRow_iff]
    omega

/-! ## Completion -/

/-- Settles O33: part of what `exec_kept` says of every row. -/
theorem everyInstructionCompletes : Obligations.EveryInstructionCompletes := by
  intro i s
  obtain ⟨t, ht, -⟩ := Machine.exec_kept i s
  exact ⟨t, ht⟩

end Sys2Proof
end

section
/-!
PROOFS. The frame decoder (40_frame_decoder.md): what a marker and a data byte do to the candidate, and that a frame without the
marker value among its bytes is stored whole between two markers and installed.
-/
namespace Sys2Proof.Machine

variable {s : State} {m : Byte}

/-! ## Markers -/

/-- The marker row of the instance's label closes the candidate and opens a new one (40_frame_decoder.md R110). -/
theorem exec_rxMarker {i : Instr} (hf : s.cfgFault = false)
    (h : i = .rxMarkerTop ∧ s.cfgLabel = Config.labelTop ∨ i = .rxMarkerBottom ∧ s.cfgLabel = Config.labelBottom) :
    exec i s = .next (rxMarker s) := by
  obtain ⟨rfl, hlabel⟩ | ⟨rfl, hlabel⟩ := h <;>
    exact congrArg _ (rxByte_of_marker hf (congrArg marker hlabel))

/-- Settles O9: a full candidate is installed, any other is dropped. -/
theorem markerClosesCandidate : Obligations.MarkerClosesCandidate := by
  intro s i hf hi
  rw [exec_rxMarker hf hi]
  constructor
  · rintro ⟨hs, hc⟩
    exact congrArg _ (rxMarker_install hs hc)
  · intro hc
    exact congrArg _ (rxMarker_open hc)

/-! ## Data bytes -/

/-- The count of the candidate does not wrap below its saturation value (40_frame_decoder.md R111). -/
theorem rxCnt_succ_toNat {n : BitVec 4} (h : n.toNat < 14) : (n + 1).toNat = n.toNat + 1 := by
  bv_omega

/-- Settles O10: a byte up to the thirteenth is stored and counted, the fourteenth is counted only, later ones are neither. -/
theorem synchronisedDataIsStoredAndCounted : Obligations.SynchronisedDataIsStoredAndCounted := by
  intro s b m hf hm hb hs
  refine ⟨rxData b s, congrArg _ (rxByte_of_data hf hm hb), ?_⟩
  by_cases hc : s.rxCnt.toNat < 13
  · rw [rxData_store b hs hc]
    refine ⟨rfl, rxCnt_succ_toNat, fun hfull => by omega, fun k => ?_⟩
    show (s.rxBuf.set s.rxCnt.toNat b)[k.val] = _
    rw [Vector.getElem_set]
    simp only [eq_comm, Fin.getElem_fin]
  · rw [rxData_count b hs (by omega)]
    refine ⟨rfl, fun hlt => ?_, fun hfull => if_neg (by omega), fun k => (if_neg (by omega)).symm⟩
    show (if s.rxCnt.toNat < 14 then s.rxCnt + 1 else s.rxCnt).toNat = _
    rw [if_pos hlt, rxCnt_succ_toNat hlt]

/-- A data byte before the first marker is ignored (40_frame_decoder.md R112). -/
theorem rxData_unsynced (b : Byte) (hs : s.rxSynced = false) : rxData b s = s := by
  simp [rxData, hs]

/-- Settles O11. -/
theorem unsynchronisedDataIsIgnored : Obligations.UnsynchronisedDataIsIgnored := by
  intro s b m hf hm hb hs
  exact congrArg _ ((rxByte_of_data hf hm hb).trans (rxData_unsynced b hs))

/-! ## A frame between two markers -/

/-- The candidate buffer with the first `n` bytes of the frame `f` stored over what it held before. -/
def storedPrefix (f buf : Vector Byte 13) (n : Nat) : Vector Byte 13 :=
  Vector.ofFn fun k => if k.val < n then f[k] else buf[k]

theorem storedPrefix_zero (f buf : Vector Byte 13) : storedPrefix f buf 0 = buf := by
  ext k hk
  simp [storedPrefix]

theorem storedPrefix_all (f buf : Vector Byte 13) : storedPrefix f buf 13 = f := by
  ext k hk
  simp [storedPrefix]

theorem storedPrefix_succ (f buf : Vector Byte 13) (n : Fin 13) :
    storedPrefix f buf (n.val + 1) = (storedPrefix f buf n.val).set n.val f[n] := by
  ext k hk
  simp only [storedPrefix, Vector.getElem_ofFn, Vector.getElem_set]
  by_cases hkn : n.val = k
  · subst hkn
    simp
  · have hiff : k < n.val + 1 ↔ k < n.val := by omega
    simp [hkn, hiff]

/-- The state with the first `n` bytes of the frame `f` in the candidate (40_frame_decoder.md R111). -/
def holdingPrefix (f : Vector Byte 13) (n : Nat) (s : State) : State :=
  { s with rxBuf := storedPrefix f s.rxBuf n, rxCnt := BitVec.ofNat 4 n }

theorem holdingPrefix_zero (h : Receiving m 0 s) (f : Vector Byte 13) : holdingPrefix f 0 s = s := by
  have hempty : s.rxCnt = BitVec.ofNat 4 0 := BitVec.eq_of_toNat_eq (Nat.le_zero.1 h.count)
  simp only [holdingPrefix, storedPrefix_zero, ← hempty]

/-- A partly stored frame is a candidate of that length, still open. -/
theorem holdingPrefix_receiving {n : Nat} (h : Receiving m 0 s) (f : Vector Byte 13) (hn : n ≤ 13) :
    Receiving m n (holdingPrefix f n s) ∧ (holdingPrefix f n s).rxCnt.toNat = n := by
  have hcnt : (holdingPrefix f n s).rxCnt.toNat = n := by
    simp only [holdingPrefix, BitVec.toNat_ofNat]
    omega
  exact ⟨⟨h.usable, h.label, h.synced, hcnt.le⟩, hcnt⟩

/-- The next byte of the frame, which is no marker, is stored behind those before it (40_frame_decoder.md R111). -/
theorem rxByte_holdingPrefix (h : Receiving m 0 s) (f : Vector Byte 13) (n : Fin 13) (hdata : f[n] ≠ m) :
    rxByte f[n] (holdingPrefix f n.val s) = holdingPrefix f (n.val + 1) s := by
  obtain ⟨hheld, hcnt⟩ := holdingPrefix_receiving h f n.isLt.le
  rw [rxByte_of_data hheld.usable hheld.label hdata, rxData_store _ hheld.synced (hcnt.trans_lt n.isLt)]
  simp only [hcnt]
  simp only [holdingPrefix, storedPrefix_succ, BitVec.ofNat_add]
  rfl

/-- The bytes of a frame, none of them the marker, fill an empty candidate in order. -/
theorem rxBytes_take_frame (h : Receiving m 0 s) (f : Vector Byte 13) (hdata : ∀ k : Fin 13, f[k] ≠ m) (n : Nat) (hn : n ≤ 13) :
    rxBytes (f.toList.take n) s = holdingPrefix f n s := by
  induction n with
  | zero => exact (holdingPrefix_zero h f).symm
  | succ n ih =>
    have hbytes : f.toList.take (n + 1) = f.toList.take n ++ [f[n]] := by
      rw [← List.take_append_getElem (by simpa using hn), Vector.getElem_toList]
    rw [hbytes, rxBytes_append, ih (by omega)]
    exact rxByte_holdingPrefix h f ⟨n, hn⟩ (hdata ⟨n, hn⟩)

/-- The state after the frame `f` is installed: an open empty candidate and the status of `f` (40_frame_decoder.md R110,
41_status_interpreter.md R138). -/
def frameInstalled (f : Vector Byte 13) (s : State) : State :=
  installStatus (decodeFrame s.cfgOut4 f) { s with rxSynced := true, rxCnt := 0, rxBuf := f }

/-- A marker behind the whole frame installs it (40_frame_decoder.md R113). -/
theorem rxMarker_holdingPrefix (f : Vector Byte 13) (hs : s.rxSynced = true) :
    rxMarker (holdingPrefix f 13 s) = frameInstalled f s := by
  rw [rxMarker_install (s := holdingPrefix f 13 s) hs rfl]
  simp only [holdingPrefix, storedPrefix_all]
  rfl

/-- What the opening marker did to the receive path and the status, the installed frame replaces. -/
theorem frameInstalled_rxMarker (f : Vector Byte 13) (s : State) : frameInstalled f (rxMarker s) = frameInstalled f s := by
  by_cases hc : s.rxSynced = true ∧ s.rxCnt.toNat = 13
  · rw [rxMarker_install hc.1 hc.2]
    rfl
  · rw [rxMarker_open hc]
    rfl

/-- Settles O12: the opening marker empties the candidate, the frame fills it, the closing marker installs it. -/
theorem statusFrameIsInstalled : Obligations.StatusFrameIsInstalled := by
  intro s f m hf hm hdata
  have hopen : Receiving m 0 (rxByte m s) := rxByte_marker_receiving hf hm
  have hstored : rxBytes f.toList (rxByte m s) = holdingPrefix f 13 (rxByte m s) := by
    have htake := rxBytes_take_frame hopen f hdata 13 (le_refl 13)
    rwa [List.take_of_length_le (by simp)] at htake
  obtain ⟨hfull, -⟩ := holdingPrefix_receiving hopen f (le_refl 13)
  calc exec (.sf13 f) s
    _ = .next (rxBytes (f.toList ++ [m]) (rxByte m s)) := exec_sf13 hm f
    _ = .next (rxByte m (holdingPrefix f 13 (rxByte m s))) := by rw [rxBytes_append, hstored, rxBytes, rxBytes]
    _ = .next (frameInstalled f (rxByte m s)) := by
      rw [rxByte_of_marker hfull.usable hfull.label, rxMarker_holdingPrefix f hopen.synced]
    _ = .next (frameInstalled f s) := by rw [rxByte_of_marker hf hm, frameInstalled_rxMarker]

end Sys2Proof.Machine
end

section
/-!
PROOFS. The status interpreter (41_status_interpreter.md): what each field of a decoded frame reads, what an install writes, and what
a status read answers under each output count.
-/
namespace Sys2Proof.Machine

variable {s : State}

/-! ## Selector codes and flag bits -/

theorem portNumber_of_other {code : Byte} (h8 : code ≠ 8) (h4 : code ≠ 4) : portNumber code = code := by
  rw [portNumber, if_neg h8, if_neg h4]

/-- Settles O14: the two exceptional codes by running the function, every other one by its last branch. -/
theorem portNumberOfCode : Obligations.PortNumberOfCode := by
  intro s code
  refine ⟨portNumber code, rfl, ?_, ?_, portNumber_of_other⟩
  · rintro rfl
    rfl
  · rintro rfl
    rfl

/-- `byte[p]` by shift and mask (41_status_interpreter.md R131). -/
theorem available_eq_true_iff (byte : Byte) (p : Nat) : available byte p = true ↔ (byte >>> p) &&& 1 = 1 := by
  have hmask : (byte >>> p) &&& 1 = (BitVec.ofBool (available byte p)).setWidth 8 :=
    BitVec.and_one_eq_setWidth_ofBool_getLsbD.trans (by simp [available])
  rw [hmask]
  cases available byte p <;> decide

/-- Settles O15. -/
theorem availabilityIsTheBit : Obligations.AvailabilityIsTheBit := by
  intro s byte pos
  exact ⟨available byte pos.toNat, rfl, available_eq_true_iff byte pos.toNat⟩

/-! ## The fields of a decoded frame (30_encoding.md R86, R87) -/

/-- The selector codes of an output that the configuration has (41_status_interpreter.md R132, R133). -/
theorem decodeFrame_selectors {out4 : Bool} (f : Vector Byte 13) (k : Fin 4) (h : k.val < 2 ∨ out4 = true) :
    (decodeFrame out4 f).mem[k] = portNumber f[k.val] ∧ (decodeFrame out4 f).route[k] = portNumber f[k.val + 4] := by
  match k with
  | 0 | 1 => exact ⟨rfl, rfl⟩
  | 2 | 3 =>
    obtain rfl : out4 = true := h.resolve_left (by decide)
    exact ⟨rfl, rfl⟩

/-- The input bits are the upper half of the flag byte, input 1 at the top (41_status_interpreter.md R135). -/
theorem decodeFrame_inp (out4 : Bool) (f : Vector Byte 13) (k : Fin 4) :
    (decodeFrame out4 f).inp[k] = available f[8] (7 - k.val) := by
  match k with
  | 0 | 1 | 2 | 3 => rfl

/-- With four outputs their bits are the lower half of the flag byte (41_status_interpreter.md R136). -/
theorem decodeFrame_out (f : Vector Byte 13) (k : Fin 4) : (decodeFrame true f).out[k] = available f[8] (3 - k.val) := by
  match k with
  | 0 | 1 | 2 | 3 => rfl

/-- With two outputs there are no output bits (41_status_interpreter.md R136, R137). -/
theorem decodeFrame_out_absent (f : Vector Byte 13) (k : Fin 4) : (decodeFrame false f).out[k] = false :=
  Vector.getElem_replicate k.isLt

/-- Settles O16: the record is `decodeFrame`'s, field by field. -/
theorem decodedRecordOfFrame : Obligations.DecodedRecordOfFrame := by
  intro s f
  refine ⟨decodeFrame s.cfgOut4 f, rfl, fun k => ?inp, ?power, decodeFrame_selectors f, fun h4 k => ?out, fun h2 => ?absent⟩
  case inp => rw [decodeFrame_inp, available_eq_true_iff]
  case power => exact bne_iff_ne
  case out => rw [h4, decodeFrame_out, available_eq_true_iff]
  case absent =>
    rw [h2]
    exact ⟨rfl, rfl, rfl, rfl, decodeFrame_out_absent f⟩

/-! ## Install and read -/

/-- Settles O17. -/
theorem installWritesWholeStatus : Obligations.InstallWritesWholeStatus := by
  intro s d hf
  exact congrArg _ (whenUsable_of_usable hf _)

/-- A status read answers `EMPTY` while there is no status to read (41_status_interpreter.md R139, 60_exceptions.md R232). -/
theorem statusRead_empty (h : s.cfgFault = true ∨ s.stValid = false) : statusRead s = none := by
  obtain h | h := h <;> simp [statusRead, h]

theorem statusRead_valid (hf : s.cfgFault = false) (hv : s.stValid = true) : statusRead s = some (statusRecord s) := by
  simp [statusRead, hf, hv]

/-- What is answered of a per-output field: the members of the outputs the configuration has (41_status_interpreter.md R139). -/
theorem take_channelCount (v : Vector Byte 4) :
    v.toList.take (channelCount true) = v.toList ∧ v.toList.take (channelCount false) = [v[0], v[1]] := by
  constructor
  · exact List.take_of_length_le v.length_toList.le
  · rw [channelCount, if_neg nofun, List.take_add_one, List.take_add_one]
    simp

/-- Settles O18: no answer without a valid status; with one, the fields that the output count gives. -/
theorem statusReadAnswersLastInstall : Obligations.StatusReadAnswersLastInstall := by
  intro s
  have hexec : exec .getstatus s = .next (emit (.status (statusRead s)) s) := rfl
  constructor
  · intro h
    rw [hexec, statusRead_empty h]
    rfl
  · intro hf hv
    rw [hexec, statusRead_valid hf hv]
    obtain ⟨hmem4, hmem2⟩ := take_channelCount s.stMem
    obtain ⟨hroute4, hroute2⟩ := take_channelCount s.stRoute
    refine ⟨statusRecord s, rfl, rfl, rfl, fun h4 => ?_, fun h2 => ?_⟩
    · simp only [statusRecord, h4, hmem4, hroute4, if_true, and_self]
    · simp only [statusRecord, h2, hmem2, hroute2, if_false, Bool.false_eq_true, and_self]

end Sys2Proof.Machine
end

section
/-!
PROOFS. The command encoder (42_command_encoder.md): what each of its functions answers, by value, and that an in-domain step is
read back from its command byte.
-/
namespace Sys2Proof.Machine

/-! ## PARSE, CMDINT and COMPLEMENT -/

/-- The digit of a character of '1'..'9', by value (42_command_encoder.md R151). -/
theorem parseDigit_of_digit {c : Byte} (h : 0x31 ≤ c.toNat ∧ c.toNat ≤ 0x39) :
    parseDigit c = some (BitVec.ofNat 8 (c.toNat - 0x30)) := by
  refine parseDigit_eq_some.2 ⟨h, ?_⟩
  bv_omega

/-- Settles O20. -/
theorem parsedDigit : Obligations.ParsedDigit := by
  intro s c
  exact ⟨parseDigit c, rfl, parseDigit_of_digit, parseDigit_eq_none.2⟩

/-- With an output index of two bits `CMDINT` does not wrap (42_command_encoder.md R152, R155). -/
theorem cmdIndex_setWidth_toNat {d : Byte} (i : BitVec 2) (h1 : 1 ≤ d.toNat) (h9 : d.toNat ≤ 9) :
    (cmdIndex d (i.setWidth 8)).toNat = i.toNat * 4 + (d.toNat - 1) := by
  have hi : (i.setWidth 8).toNat = i.toNat := BitVec.toNat_setWidth_of_le (by decide)
  rw [cmdIndex_toNat h1 h9 (hi ▸ Nat.le_of_lt_succ i.isLt), hi]

/-- In the domain the free value of a digit outside 1..9 plays no part (42_command_encoder.md R152). -/
theorem execCmdint_of_digit {d : BitVec 4} (h1 : 1 ≤ d.toNat) (h9 : d.toNat ≤ 9) (i : BitVec 2) (s : State) :
    execCmdint d i s = .next (emit (.byte (cmdIndex (d.setWidth 8) (i.setWidth 8))) s) := by
  rw [execCmdint, if_pos ⟨h1, h9⟩]

/-- Settles O21: in the domain the answer is `CMDINT`'s, which stays below 256. -/
theorem commandIndexIsExact : Obligations.CommandIndexIsExact := by
  intro s d i h1 h9
  have hd : (d.setWidth 8).toNat = d.toNat := BitVec.toNat_setWidth_of_le (by decide)
  refine ⟨cmdIndex (d.setWidth 8) (i.setWidth 8), execCmdint_of_digit h1 h9 i s, ?_⟩
  rw [cmdIndex_setWidth_toNat i (hd.symm ▸ h1) (hd.symm ▸ h9), hd]

/-- A byte and its complement sum to 255 (42_command_encoder.md R153). -/
theorem toNat_add_complementByte (v : Byte) : v.toNat + (complementByte v).toNat = 255 := by
  rw [complementByte_toNat]
  exact Nat.add_sub_of_le (Nat.le_of_lt_succ v.isLt)

/-- Settles O22. -/
theorem complementByteSumsTo255 : Obligations.ComplementByteSumsTo255 := by
  intro s v
  exact ⟨complementByte v, rfl, toNat_add_complementByte v, complementByte_eq_not v⟩

/-! ## ENCODE -/

/-- `ENCODE` answers no-op where `PARSE` fails (42_command_encoder.md R156). -/
theorem encodeStep_eq_none {c i : Byte} : encodeStep c i = none ↔ parseDigit c = none :=
  Option.map_eq_none_iff

/-- The step of a character of '1'..'9': its command byte by value (42_command_encoder.md R157). -/
theorem encodeStep_of_digit {c : Byte} (i : BitVec 2) (h : 0x31 ≤ c.toNat ∧ c.toNat ≤ 0x39) :
    ∃ v : Byte, encodeStep c (i.setWidth 8) = some (wireStep v) ∧ v.toNat = i.toNat * 4 + (c.toNat - 0x31) := by
  have hp := parseDigit_of_digit h
  have hd := parseDigit_toNat hp
  refine ⟨_, encodeStep_eq_some.2 ⟨_, hp, rfl⟩, ?_⟩
  rw [cmdIndex_setWidth_toNat i (by omega) (by omega)]
  omega

/-- Settles O23: a character that parses gives the wire step of its command byte, every other one gives nothing. -/
theorem encodedStepBytes : Obligations.EncodedStepBytes := by
  intro s c i
  refine ⟨encodeStep c (i.setWidth 8), rfl, fun hbad => ?_, fun hdigit => ?_⟩
  · exact encodeStep_eq_none.2 (parseDigit_eq_none.2 hbad)
  · obtain ⟨v, hstep, hv⟩ := encodeStep_of_digit i hdigit
    exact ⟨wireStep v, hstep, hv, toNat_add_complementByte v, rfl, rfl⟩

/-- The step found at the end of `outs` after `ENCODE` is the encoder's. -/
theorem encodeStep_of_exec {s t : State} {c : Byte} {i : BitVec 2} {r : Option (Vector Byte 4)}
    (hexec : exec (.encodeFn c i) s = .next t) (houts : t.outs = s.outs ++ [.step r]) : encodeStep c (i.setWidth 8) = r := by
  obtain rfl : emit (.step (encodeStep c (i.setWidth 8))) s = t := Host.Outcome.next.inj hexec
  have hlast := List.append_cancel_left ((emit_outs s _).symm.trans houts)
  exact Output.step.inj (List.singleton_inj.1 hlast)

/-- Settles O24: in the domain the digit's part `c - 0x31` of the command byte is below 4, so that division and remainder by 4
separate it from the output index. -/
theorem inDomainStepsAreInvertible : Obligations.InDomainStepsAreInvertible := by
  intro s t c i w h1 h4 hexec houts
  obtain ⟨v, hstep, hv⟩ := encodeStep_of_digit i ⟨h1, by omega⟩
  obtain rfl : w = wireStep v := Option.some.inj ((encodeStep_of_exec hexec houts).symm.trans hstep)
  have hcmd : (wireStep v)[0].toNat = i.toNat * 4 + (c.toNat - 0x31) := hv
  refine ⟨?index, ?digit, toNat_add_complementByte v⟩
  case index => omega
  case digit => omega

end Sys2Proof.Machine
end

section
/-!
PROOFS. The command sequencer (43_command_sequencer.md): the request queue, the request characters, what `Advance` leaves, the phases
of a route step one tick at a time, and the whole timeline of a step.
-/
namespace Sys2Proof.Machine

variable {s t u : State} {r : Request} {waiting : List Request} {rest : List Input}

/-! ## The request queue -/

theorem queueFull_of_depth {d : Nat} (hd : s.qDepth = some d) (hlen : d ≤ s.q.length) : queueFull s = true := by
  simp [queueFull, hd, hlen]

theorem queueFull_of_room (h : ∀ d, s.qDepth = some d → s.q.length < d) : queueFull s = false := by
  cases hd : s.qDepth with
  | none => simp [queueFull, hd]
  | some d => simpa [queueFull, hd] using h d hd

/-- Settles O26: the four branches of `SWITCHCMD`, the two without effect together. -/
theorem switchRequestIsQueuedOrRefused : Obligations.SwitchRequestIsQueuedOrRefused := by
  intro s r
  have hexec : exec (.switchcmd r) s = execSwitchcmd r s := rfl
  rw [hexec, execSwitchcmd]
  refine ⟨fun hrefused => ?_, fun hf hlen => ⟨fun d hd hfull => ?_, fun hroom => ?_⟩⟩
  · obtain hf | hlong := hrefused
    · rw [if_pos hf]
      rfl
    · rw [if_pos hlong, ite_self]
      rfl
  all_goals rw [if_neg (by simp [hf]), if_neg (by simpa using hlen)]
  · rw [if_pos (queueFull_of_depth hd hfull), raiseErr_eq]
    simp [emit, logCode]
  · rw [if_neg (by simp [queueFull_of_room hroom])]
    rfl

/-! ## Request characters -/

/-- Settles O30. -/
theorem skippedCharacterOnlyAdvancesIndex : Obligations.SkippedCharacterOnlyAdvancesIndex := by
  intro s i hf hi
  have hexec : exec i s = .next (skipStep s) := by obtain rfl | ⟨c, rfl⟩ := hi <;> rfl
  rw [hexec, skipStep, whenUsable_of_usable hf]
  refine ⟨_, rfl, rfl, fun hidx => ?_⟩
  rw [nextChar_idx]
  bv_omega

/-- The nine rows of route characters, row `k` with the digit `k + 1` (43_command_sequencer.md R178). -/
theorem exec_routeRow (k : Fin 9) (s : State) :
    exec ([Instr.route1, .route2, .route3, .route4, .route5, .route6, .route7, .route8, .route9][k.val]) s =
      .next (routeStep (BitVec.ofNat 8 (k.val + 1)) s) := by
  fin_cases k <;> rfl

/-- The character of row `k`. -/
theorem routeRow_char (k : Fin 9) : 0x30 + BitVec.ofNat 8 (k.val + 1) = BitVec.ofNat 8 (0x31 + k.val) := by
  bv_omega

/-- Settles O31: where the row's character stands at the pointer already, writing it there changes nothing. -/
theorem routeCharacterStartsSettleDelay : Obligations.RouteCharacterStartsSettleDelay := by
  intro s k hf
  rw [exec_routeRow, routeStep, whenUsable_of_usable hf, routeRow_char]
  refine ⟨_, rfl, rfl, fun j => ?_, fun hc => ?_⟩
  · simp [Vector.getElem_setIfInBounds, eq_comm]
  · refine Vector.ext fun j hj => ?_
    by_cases hji : s.idx.toNat = j
    · subst hji
      obtain ⟨hlt, hget⟩ := Vector.getElem?_eq_some_iff.1 hc
      simpa using hget.symm
    · simp [hji]

/-! ## Advance -/

theorem exec_seqAdvance_usable (hf : s.cfgFault = false) : exec .seqAdvance s = .next (advance s) :=
  congrArg _ (whenUsable_of_usable hf _)

/-- The characters of the request from the pointer on have no digit (43_command_sequencer.md R175). -/
def OnlySkipped (s : State) : Prop :=
  ∀ k : Fin 4, s.idx.toNat ≤ k.val → k.val < s.curLen.toNat → parseDigit s.curChars[k] = none

/-- Where the scan stops at a character, `Advance` begins its settle delay, whatever waits (43_command_sequencer.md R175). -/
theorem advanceOver_of_char {c : Byte} (hc : curChar (skipChars Config.reqMaxLen s) = some c) (waiting : List Request) :
    advanceOver waiting s = beginSettle (skipChars Config.reqMaxLen s) := by
  cases waiting <;> rw [advanceOver, settleOr, hc]

/-- The first route character at or after the pointer. -/
theorem advance_to_route {j : Nat} (hj : j < 4) (hlen : s.curLen.toNat ≤ 4) (hidx : s.idx.toNat ≤ j) (hjlen : j < s.curLen.toNat)
    (hskip : ∀ k : Fin 4, s.idx.toNat ≤ k.val → k.val < j → parseDigit s.curChars[k] = none)
    (hroute : (parseDigit s.curChars[j]).isSome = true) :
    advance s = { s with idx := BitVec.ofNat 3 j, timer := 0, seqState := .settle } := by
  have hchar : s.curChars[j]? = some s.curChars[j] := Vector.getElem?_eq_getElem hj
  have hstop : ∀ c, s.curChars[j]? = some c → (parseDigit c).isSome = true := fun c hc =>
    Option.some.inj (hchar.symm.trans hc) ▸ hroute
  have hscan : skipChars Config.reqMaxLen s = { s with idx := BitVec.ofNat 3 j } :=
    skipChars_to 4 s j hj hidx (by omega) hlen hjlen hskip hstop
  have hpointer : (BitVec.ofNat 3 j).toNat = j := by
    rw [BitVec.toNat_ofNat, Nat.mod_eq_of_lt (by omega)]
  have hc : curChar (skipChars Config.reqMaxLen s) = some s.curChars[j] := by
    rw [hscan, curChar_eq_some]
    simp only [hpointer]
    exact ⟨hjlen, hchar⟩
  rw [advance, advanceOver_of_char hc, hscan]
  rfl

/-- Settles O34. -/
theorem advanceStopsAtRouteCharacter : Obligations.AdvanceStopsAtRouteCharacter := by
  intro s j hf hlen hidx hjlen hskip hroute
  rw [exec_seqAdvance_usable hf, advance_to_route j.isLt hlen hidx hjlen hskip hroute]

/-- Over skipped characters the scan ends behind the request, where `Advance` goes on with what follows it
(43_command_sequencer.md R175). -/
theorem settleOr_end (hlen : s.curLen.toNat ≤ 4) (hidx : s.idx.toNat ≤ s.curLen.toNat) (hskip : OnlySkipped s) (next : State → State) :
    settleOr (skipChars Config.reqMaxLen s) (next (skipChars Config.reqMaxLen s)) = next { s with idx := s.curLen } := by
  have hscan : skipChars Config.reqMaxLen s = { s with idx := s.curLen } := skipChars_end 4 s hidx (by omega) hlen hskip
  have hend : curChar { s with idx := s.curLen } = none :=
    curChar_eq_none (s := { s with idx := s.curLen }) (Nat.le_refl s.curLen.toNat)
  rw [hscan, settleOr, hend]

theorem advance_of_queue (hq : s.q = waiting) : advance s = advanceOver waiting s := congrArg (advanceOver · s) hq

/-- The end of the last request (43_command_sequencer.md R175). -/
theorem advance_end_idle (hlen : s.curLen.toNat ≤ 4) (hidx : s.idx.toNat ≤ s.curLen.toNat) (hskip : OnlySkipped s) (hq : s.q = []) :
    advance s = { s with idx := s.curLen, seqState := .idle } :=
  (advance_of_queue hq).trans (settleOr_end hlen hidx hskip fun u => { u with seqState := .idle })

/-- The end of a request with another one waiting (43_command_sequencer.md R175, R185). -/
theorem advance_end_next (hlen : s.curLen.toNat ≤ 4) (hidx : s.idx.toNat ≤ s.curLen.toNat) (hskip : OnlySkipped s)
    (hq : s.q = r :: waiting) : advance s = advance (loadRequest r waiting s) :=
  (advance_of_queue hq).trans (settleOr_end hlen hidx hskip fun u => advanceOver waiting (loadRequest r waiting u))

/-- Settles O35. -/
theorem advanceEndsRequest : Obligations.AdvanceEndsRequest := by
  intro s hf hlen hidx hskip
  refine ⟨fun hq => ?_, fun r waiting hq => ?_⟩
  · rw [exec_seqAdvance_usable hf, advance_end_idle hlen hidx hskip hq]
  · rw [exec_seqAdvance_usable hf, advance_end_next hlen hidx hskip hq]
    exact (exec_seqAdvance_usable (s := loadRequest r waiting s) hf).symm

/-- Settles O36. -/
theorem advanceEndsInSettleOrIdle : Obligations.AdvanceEndsInSettleOrIdle := by
  intro s hf hlen hlens
  obtain ⟨t, ht, hend, hdone, -⟩ := advanceOver_spec s.q s hlen rfl hlens
  obtain ⟨q, len, chars, idx, timer, seqState, hframe⟩ := advanceOver_frame s.q s
  refine ⟨t, (exec_seqAdvance_usable hf).trans (congrArg _ ht), ?_, hdone, ?_⟩
  · obtain hsettle | ⟨hidle, hq, -⟩ := hend
    · exact .inl hsettle
    · exact .inr ⟨hidle, hq⟩
  · rw [← ht, hframe]

/-! ## SEQ.START -/

theorem startRequest_of_empty (hq : s.q = []) : startRequest s = s := by
  rw [startRequest, hq]

theorem startRequest_of_head (hq : s.q = r :: waiting) : startRequest s = advance (loadRequest r waiting s) := by
  rw [startRequest, hq]

/-- Settles O27: after the pop, `Advance` runs over the request just loaded. -/
theorem startRunsHeadRequest : Obligations.StartRunsHeadRequest := by
  intro s r waiting hf hidle hq
  rw [exec_seqStart_idle hf hidle, startRequest_of_head hq]
  refine ⟨⟨_, rfl, exec_seqAdvance_usable (s := loadRequest r waiting s) hf⟩, fun j hlen hjlen hskip hroute => ?_⟩
  rw [advance_to_route (s := loadRequest r waiting s) j.isLt hlen (by simp) hjlen (fun k _ hk => hskip k hk) hroute]
  rfl

/-- In a quiescent state `SEQ.START` finds nothing to start, usable or not (43_command_sequencer.md R172). -/
theorem exec_seqStart_quiescent (h : quiescent s) : exec .seqStart s = .next s := by
  obtain ⟨hidle, hq⟩ := h
  show Host.Outcome.next (whenUsable s _) = _
  rw [if_pos hidle, startRequest_of_empty hq, whenUsable, ite_self]

/-- Settles O28. -/
theorem quiescentTickChangesNothing : Obligations.QuiescentTickChangesNothing := by
  intro s rest fails h hin
  obtain ⟨hidle, hq⟩ := id h
  have hstart : tickInstr s = .seqStart := by rw [tickInstr, hidle]
  rw [step_tick hin, hstart]
  exact exec_seqStart_quiescent (s := { s with inputs := rest, txFail := fails }) h

/-- A request of legal length without a route character. -/
def SkippedRequest (r : Request) : Prop := r.len.toNat ≤ 4 ∧ ∀ k : Fin 4, k.val < r.len.toNat → parseDigit r.chars[k] = none

theorem loadRequest_onlySkipped (h : SkippedRequest r) (waiting : List Request) (s : State) : OnlySkipped (loadRequest r waiting s) :=
  fun k _ hk => h.2 k hk

/-- Loaded requests of skipped characters are passed over to the last one waiting (43_command_sequencer.md R175, R185). -/
theorem advance_over_skipped (waiting : List Request) (hwaiting : ∀ x ∈ waiting, SkippedRequest x) (r : Request) (hr : SkippedRequest r)
    (s : State) : ∃ len chars idx, advance (loadRequest r waiting s) =
      { s with q := [], curLen := len, curChars := chars, idx := idx, seqState := .idle } := by
  induction waiting generalizing r s with
  | nil => exact ⟨_, _, _, advance_end_idle hr.1 (by simp) (loadRequest_onlySkipped hr [] s) rfl⟩
  | cons x waiting ih =>
    rw [advance_end_next hr.1 (by simp) (loadRequest_onlySkipped hr _ s) rfl]
    obtain ⟨len, chars, idx, hend⟩ :=
      ih (fun y hy => hwaiting y (by simp [hy])) x (hwaiting x (by simp)) (loadRequest r (x :: waiting) s)
    exact ⟨len, chars, idx, hend⟩

/-- Settles O29. -/
theorem allSkipRequestsTakeOneTick : Obligations.AllSkipRequestsTakeOneTick := by
  intro s hf hidle hskipped
  rw [exec_seqStart_idle hf hidle]
  refine ⟨_, rfl, ?_⟩
  cases hq : s.q with
  | nil =>
    rw [startRequest_of_empty hq]
    exact ⟨hq, hidle, rfl⟩
  | cons r waiting =>
    rw [hq] at hskipped
    obtain ⟨len, chars, idx, hend⟩ :=
      advance_over_skipped waiting (fun x hx => hskipped x (by simp [hx])) r (hskipped r (by simp)) s
    rw [startRequest_of_head hq, hend, ← hidle]
    exact ⟨rfl, rfl, rfl⟩

/-! ## The ticks of a route step -/

/-- Settles O37. -/
theorem settleCountsTicks : Obligations.SettleCountsTicks := by
  intro s hf hs hlt
  rw [exec_seqSettle_settle hf hs, settleTick_count hlt]
  exact ⟨_, rfl, timer_succ (by omega), rfl⟩

/-- The command byte of the route character at the pointer (42_command_encoder.md R152). -/
theorem pointerStep_command {c d : Byte} (hc : s.curChars[s.idx.toNat]? = some c) (hd : parseDigit c = some d) :
    ∃ v : Byte, pointerStep s = some (wireStep v) ∧ v.toNat = s.idx.toNat * 4 + (d.toNat - 1) := by
  obtain ⟨hidx, -⟩ := Vector.getElem?_eq_some_iff.1 hc
  obtain ⟨⟨h1, h9⟩, -⟩ := parseDigit_eq_some.1 hd
  have hdigit := parseDigit_toNat hd
  have hpointer := outputIndex_toNat s
  refine ⟨_, pointerStep_of_char hc hd, ?_⟩
  rw [cmdIndex_toNat (by omega) (by omega) (by omega), hpointer]

theorem exec_seqBeginXmit_usable (hf : s.cfgFault = false) : exec .seqBeginXmit s = .next (beginXmit s) :=
  congrArg _ (whenUsable_of_usable hf _)

/-- Settles O38: both rows perform `BeginXmit`, which leaves `TIMER` at 0 whatever it was. -/
theorem transmissionBeginsAtT : Obligations.TransmissionBeginsAtT := by
  intro s c d i hf hc hd hi
  obtain ⟨v, hstep, hv⟩ := pointerStep_command hc hd
  refine ⟨wireStep v, hv, toNat_add_complementByte v, rfl, rfl, ?_⟩
  obtain rfl | ⟨rfl, hs, ht⟩ := hi
  · rw [exec_seqBeginXmit_usable hf, beginXmit_of_step hstep]
  · rw [exec_seqSettle_settle hf hs, settleTick_begin ht, beginXmit_of_step (s := { s with timer := s.timer + 1 }) hstep]

/-- Settles O39. -/
theorem wireBytesAreStaggered : Obligations.WireBytesAreStaggered := by
  intro s k hf hs hk ht
  rw [exec_seqXmit_xmit hf hs, xmitTick_write k hk ht]
  exact ⟨_, rfl, (timer_succ (by omega)).trans ht, rfl⟩

/-- Settles O40. -/
theorem xmitIsSilentBetweenWrites : Obligations.XmitIsSilentBetweenWrites := by
  intro s hf hs hlt hsilent
  rw [exec_seqXmit_xmit hf hs, xmitTick_silent hlt hsilent]
  exact ⟨_, rfl, timer_succ (by omega), rfl⟩

/-- `SEQ.DRAIN` at T+250 in `XMIT` (43_command_sequencer.md R183; log 15). -/
theorem exec_seqDrain_xmit (hf : s.cfgFault = false) (hs : s.seqState = .xmit) (ht : s.timer.toNat = 250) :
    exec .seqDrain s = .next (drainRequest s) := by
  show Host.Outcome.next (whenUsable s _) = _
  rw [whenUsable_of_usable hf, if_neg (by simp [hs]), if_pos ⟨hs, ht⟩]

/-- Settles O41. -/
theorem drainIsRequestedAtOffset : Obligations.DrainIsRequestedAtOffset := by
  intro s hf hs
  refine ⟨fun ht => ?_, fun ht => exec_seqDrain_xmit hf hs ht⟩
  have hnext : s.timer + 1 = 250 := by bv_omega
  rw [exec_seqXmit_xmit hf hs, xmitTick_drain ht, hnext]
  rfl

theorem exec_seqEndStep_drain (hf : s.cfgFault = false) (hs : s.seqState = .drain) (hd : s.drainDone = true) :
    exec .seqEndStep s = .next (endStep s) := by
  show Host.Outcome.next (whenUsable s _) = _
  rw [whenUsable_of_usable hf, if_pos ⟨hs, hd⟩]

/-- Settles O42. -/
theorem drainAnswerEndsStep : Obligations.DrainAnswerEndsStep := by
  intro s hf hs
  rw [exec_seqDrain_drain hf hs, drainTick]
  refine ⟨fun hd => ?_, fun hd hok => ?_, fun hd hok => ?_⟩
  · rw [if_neg (by simp [hd])]
  · rw [exec_seqEndStep_drain hf hs hd, if_pos hd, if_pos hok]
  · have hraise : raiseErr .eDrain s = { s with errDrain := true, outs := s.outs ++ [.log 2] } := rfl
    rw [if_pos hd, if_neg (by simp [hok]), hraise]
    exact (exec_seqEndStep_drain (s := { s with errDrain := true, outs := s.outs ++ [.log 2] }) hf hs hd).symm

/-- Settles O43. -/
theorem endOfStepAdvances : Obligations.EndOfStepAdvances := by
  intro s hf hs hd hidx
  have hnext : BitVec.ofNat 3 (s.idx.toNat + 1) = s.idx + 1 := by bv_omega
  rw [hnext]
  exact ⟨_, exec_seqEndStep_drain hf hs hd, exec_seqAdvance_usable (s := nextChar s) hf⟩

/-! ## Ticks one after the other -/

/-- The ticks of `fs`, the PHY refusing a write at those that are true, take the machine from `s` to `t`, whatever comes after them.
The inputs still to come and the level of `tx_fail` are left out of `s` and `t`. -/
def TicksTo (fs : List Bool) (s t : State) : Prop :=
  ∀ rest level, ∃ level', after fs.length { s with inputs := fs.map tickInput ++ rest, txFail := level } =
    some { t with inputs := rest, txFail := level' }

theorem TicksTo.after {fs : List Bool} {n : Nat} (h : TicksTo fs s t) (hn : fs.length = n) (hin : s.inputs = fs.map tickInput ++ rest) :
    ∃ level, after n s = some { t with inputs := rest, txFail := level } := by
  subst hn
  obtain ⟨level, hrun⟩ := h rest s.txFail
  rw [← hin] at hrun
  exact ⟨level, hrun⟩

theorem TicksTo.refl (s : State) : TicksTo [] s s := fun _ level => ⟨level, rfl⟩

theorem TicksTo.append {fs gs : List Bool} (h : TicksTo fs s t) (h' : TicksTo gs t u) : TicksTo (fs ++ gs) s u := by
  intro rest level
  obtain ⟨mid, hmid⟩ := h (gs.map tickInput ++ rest) level
  obtain ⟨last, hlast⟩ := h' rest mid
  refine ⟨last, ?_⟩
  rw [List.length_append, List.map_append, List.append_assoc, after_add _ hmid, hlast]

/-- The tick after the first `m` ticks of `fs`. -/
theorem TicksTo.tick {fs : List Bool} {m : Nat} {v : Bool → State} (h : TicksTo (fs.take m) s u) (hm : m < fs.length)
    (hv : ∀ f, TicksTo [f] u (v f)) : TicksTo (fs.take (m + 1)) s (v fs[m]) := by
  rw [List.take_succ_eq_append_getElem hm]
  exact h.append (hv _)

/-- The state a tick is handled in. -/
abbrev takeTick (f : Bool) (rest : List Input) (s : State) : State := { s with inputs := rest, txFail := f }

/-- One tick runs the action that `SEQ_STATE` selects (43_command_sequencer.md R173). -/
theorem TicksTo.of_exec {f : Bool} {i : Instr} (hi : tickInstr s = i)
    (h : ∀ rest, exec i (takeTick f rest s) = .next (takeTick f rest t)) : TicksTo [f] s t := by
  subst hi
  exact fun rest _ => ⟨f, after_succ ((step_tick rfl).trans (h rest))⟩

theorem TicksTo.of_settleTick {f : Bool} (hf : s.cfgFault = false) (hs : s.seqState = .settle)
    (h : ∀ rest, settleTick (takeTick f rest s) = takeTick f rest t) : TicksTo [f] s t := by
  refine .of_exec (i := .seqSettle) (by rw [tickInstr, hs]) fun rest => ?_
  rw [exec_seqSettle_settle (s := takeTick f rest s) hf hs, h]

theorem TicksTo.of_xmitTick {f : Bool} (hf : s.cfgFault = false) (hs : s.seqState = .xmit)
    (h : ∀ rest, xmitTick (takeTick f rest s) = takeTick f rest t) : TicksTo [f] s t := by
  refine .of_exec (i := .seqXmit) (by rw [tickInstr, hs]) fun rest => ?_
  rw [exec_seqXmit_xmit (s := takeTick f rest s) hf hs, h]

/-! ## `TIMER` and the writes along a route step -/

/-- The state with `TIMER` at `n`. -/
def atTimer (n : Nat) (s : State) : State := { s with timer := BitVec.ofNat 9 n }

theorem atTimer_timer {n : Nat} (hn : n < 512) (s : State) : (atTimer n s).timer.toNat = n := by
  show (BitVec.ofNat 9 n).toNat = n
  rw [BitVec.toNat_ofNat, Nat.mod_eq_of_lt hn]

theorem atTimer_succ (n : Nat) (s : State) : { atTimer n s with timer := (atTimer n s).timer + 1 } = atTimer (n + 1) s := by
  simp only [atTimer, BitVec.ofNat_add]
  rfl

theorem takeTick_atTimer (f : Bool) (rest : List Input) (n : Nat) (s : State) :
    takeTick f rest (atTimer n s) = atTimer n (takeTick f rest s) := rfl

theorem atTimer_of_timer {n : Nat} (h : s.timer = BitVec.ofNat 9 n) : atTimer n s = s := by
  rw [atTimer, ← h]

/-- `s` after writes, each a byte with the PHY's answer, `true` where it refuses (43_command_sequencer.md R182). -/
def wrote (ws : List (Byte × Bool)) (s : State) : State :=
  { s with outs := s.outs ++ ws.flatMap fun w => writeOutputs w.1 w.2, errWrite := s.errWrite || ws.any Prod.snd }

/-- One write leaves what `txWrite_eq` says. -/
theorem wrote_single (b : Byte) (f : Bool) (s : State) :
    wrote [(b, f)] s = { s with outs := s.outs ++ writeOutputs b f, errWrite := s.errWrite || f } := by
  simp [wrote]

theorem wrote_append (ws ws' : List (Byte × Bool)) (s : State) : wrote (ws ++ ws') s = wrote ws' (wrote ws s) := by
  simp [wrote, Bool.or_assoc]

/-- Writes and then the drain request, field by field (43_command_sequencer.md R182, R183). -/
theorem drainRequest_wrote (n : Nat) (ws : List (Byte × Bool)) (s : State) :
    drainRequest (atTimer n (wrote ws s)) = { s with
      timer := BitVec.ofNat 9 n, seqState := .drain, drainDone := false, errWrite := s.errWrite || ws.any Prod.snd
      outs := (s.outs ++ ws.flatMap fun w => writeOutputs w.1 w.2) ++ [.drainReq] } := by
  simp only [drainRequest, emit, atTimer, wrote]

/-! ## The timeline of a route step -/

/-- A tick of the settle delay before the 500th (43_command_sequencer.md R179). -/
theorem ticksTo_settle_count {n : Nat} (hf : s.cfgFault = false) (hs : s.seqState = .settle) (hn : n + 1 < 500) (f : Bool) :
    TicksTo [f] (atTimer n s) (atTimer (n + 1) s) := by
  refine .of_settleTick hf hs fun rest => ?_
  have ht := atTimer_timer (n := n) (by omega) (takeTick f rest s)
  rw [takeTick_atTimer, settleTick_count (s := atTimer n (takeTick f rest s)) (by omega), atTimer_succ]
  rfl

/-- The 500th tick (43_command_sequencer.md R179, R180). -/
theorem ticksTo_settle_begin {w : Vector Byte 4} (hf : s.cfgFault = false) (hs : s.seqState = .settle) (hw : pointerStep s = some w)
    (f : Bool) : TicksTo [f] (atTimer 499 s) (atTimer 0 (wrote [(w[0], f)] { s with wire := w, seqState := .xmit })) := by
  refine .of_settleTick hf hs fun rest => ?_
  rw [takeTick_atTimer, settleTick_begin (s := atTimer 499 (takeTick f rest s)) (atTimer_timer (by omega) _), atTimer_succ,
    beginXmit_of_step (s := atTimer 500 (takeTick f rest s)) hw, wrote_single]
  rfl

/-- A tick in `XMIT` that writes nothing (43_command_sequencer.md R181). -/
theorem ticksTo_xmit_count {n : Nat} (hf : s.cfgFault = false) (hs : s.seqState = .xmit) (hn : n + 1 < 250)
    (hsilent : n + 1 ∉ [50, 100, 150]) (f : Bool) : TicksTo [f] (atTimer n s) (atTimer (n + 1) s) := by
  refine .of_xmitTick hf hs fun rest => ?_
  have ht := atTimer_timer (n := n) (by omega) (takeTick f rest s)
  rw [takeTick_atTimer, xmitTick_silent (s := atTimer n (takeTick f rest s)) (by omega) (by rwa [ht]), atTimer_succ]
  rfl

/-- The tick of wire byte `k` (43_command_sequencer.md R181). -/
theorem ticksTo_xmit_write {n : Nat} {k : Fin 4} (hf : s.cfgFault = false) (hs : s.seqState = .xmit) (hk : 1 ≤ k.val)
    (hn : n + 1 = k.val * 50) (f : Bool) : TicksTo [f] (atTimer n s) (atTimer (n + 1) (wrote [(s.wire[k], f)] s)) := by
  refine .of_xmitTick hf hs fun rest => ?_
  have ht := atTimer_timer (n := n) (by omega) (takeTick f rest s)
  rw [takeTick_atTimer, xmitTick_write (s := atTimer n (takeTick f rest s)) k hk (by omega), wrote_single, ← atTimer_succ]
  rfl

/-- The tick of the drain request (43_command_sequencer.md R181, R183). -/
theorem ticksTo_xmit_drain (hf : s.cfgFault = false) (hs : s.seqState = .xmit) (f : Bool) :
    TicksTo [f] (atTimer 249 s) (drainRequest (atTimer 250 s)) := by
  refine .of_xmitTick hf hs fun rest => ?_
  rw [takeTick_atTimer, xmitTick_drain (s := atTimer 249 (takeTick f rest s)) (atTimer_timer (by omega) _), atTimer_succ]
  rfl

section Timeline
variable {fs : List Bool} {m a : Nat}

/-- After the first `m` ticks of `fs`, `k` ticks that only count. -/
theorem TicksTo.count {k : Nat} (h : TicksTo (fs.take m) s (atTimer a u)) (hk : m + k ≤ fs.length)
    (hcount : ∀ n f, n < a + k → a ≤ n → TicksTo [f] (atTimer n u) (atTimer (n + 1) u)) :
    TicksTo (fs.take (m + k)) s (atTimer (a + k) u) := by
  induction k with
  | zero => exact h
  | succ k ih =>
    have hbefore := ih (by omega) fun n f hn ha => hcount n f (by omega) ha
    exact hbefore.tick (by omega) fun f => hcount (a + k) f (by omega) (by omega)

/-- The first 500 ticks end with the write of wire byte 0 (43_command_sequencer.md R179, R180). -/
theorem ticksTo_firstWrite {w : Vector Byte 4} (hf : s.cfgFault = false) (hs : s.seqState = .settle) (hw : pointerStep s = some w)
    (hlen : 499 < fs.length) :
    TicksTo (fs.take 500) (atTimer 0 s) (atTimer 0 (wrote [(w[0], fs[499])] { s with wire := w, seqState := .xmit })) := by
  have hsettle : TicksTo (fs.take (0 + 499)) (atTimer 0 s) (atTimer (0 + 499) s) :=
    TicksTo.count (.refl _) (by omega) fun n f hn _ => ticksTo_settle_count hf hs (by omega) f
  exact hsettle.tick (by omega) fun f => ticksTo_settle_begin hf hs hw f

variable {ws : List (Byte × Bool)} (h : TicksTo (fs.take m) s (atTimer a (wrote ws u))) (hf : u.cfgFault = false)
  (hs : u.seqState = .xmit)

include h hf hs in
/-- Fifty ticks later the next wire byte is written (43_command_sequencer.md R181). -/
theorem TicksTo.nextWrite (k : Fin 4) (hk : 1 ≤ k.val) (ha : a + 50 = k.val * 50) (hm : m + 49 < fs.length) :
    TicksTo (fs.take (m + 50)) s (atTimer (a + 50) (wrote (ws ++ [(u.wire[k], fs[m + 49])]) u)) := by
  have hsilent : TicksTo (fs.take (m + 49)) s (atTimer (a + 49) (wrote ws u)) :=
    h.count (by omega) fun n f hn hle => ticksTo_xmit_count (s := wrote ws u) hf hs (by omega) (by simp; omega) f
  rw [wrote_append]
  exact hsilent.tick hm fun f => ticksTo_xmit_write (s := wrote ws u) hf hs hk ha f

include h hf hs in
/-- A hundred ticks after the last write the drain is requested (43_command_sequencer.md R181, R183). -/
theorem TicksTo.drain (ha : a = 150) (hm : m + 99 < fs.length) :
    TicksTo (fs.take (m + 100)) s (drainRequest (atTimer 250 (wrote ws u))) := by
  subst ha
  have hsilent : TicksTo (fs.take (m + 99)) s (atTimer 249 (wrote ws u)) :=
    h.count (by omega) fun n f hn hle => ticksTo_xmit_count (s := wrote ws u) hf hs (by omega) (by simp; omega) f
  exact hsilent.tick hm fun f => ticksTo_xmit_drain (s := wrote ws u) hf hs f

/-- The whole step from the start of its settle delay (43_command_sequencer.md R178 to R183). -/
theorem ticksTo_routeStep {w : Vector Byte 4} (hf : s.cfgFault = false) (hs : s.seqState = .settle) (hw : pointerStep s = some w)
    (hlen : fs.length = 750) :
    TicksTo fs (atTimer 0 s) (drainRequest (atTimer 250
      (wrote [(w[0], fs[499]), (w[1], fs[549]), (w[2], fs[599]), (w[3], fs[649])] { s with wire := w, seqState := .xmit }))) := by
  have hbyte0 := ticksTo_firstWrite hf hs hw (fs := fs) (by omega)
  have hbyte1 := hbyte0.nextWrite hf rfl 1 (by decide) rfl (by omega)
  have hbyte2 := hbyte1.nextWrite hf rfl 2 (by decide) rfl (by omega)
  have hbyte3 := hbyte2.nextWrite hf rfl 3 (by decide) rfl (by omega)
  have hdrain := hbyte3.drain hf rfl rfl (by omega)
  rwa [List.take_of_length_le (by omega)] at hdrain

end Timeline

/-- Settles O45: the run of `ticksTo_routeStep`, with the wire bytes of the character at the pointer. -/
theorem routeStepTimeline : Obligations.RouteStepTimeline := by
  intro s fails rest c d hf hs ht hc hd hin
  obtain ⟨v, hstep, hv⟩ := pointerStep_command hc hd
  have hticks := ticksTo_routeStep hf hs hstep fails.length_toList
  rw [atTimer_of_timer ht, drainRequest_wrote] at hticks
  obtain ⟨level, hrun⟩ := hticks.after fails.length_toList hin
  refine ⟨_, v, hrun, hv, ?_, rfl, rfl, rfl, rfl, rfl, rfl, ?_⟩
  · simp [wireStep, complementByte_eq_not]
  · simp [Bool.or_assoc]

end Sys2Proof.Machine
end

section
/-!
PROOFS. The output ports (44_external_interfaces.md): what the status ports show with and without a status to read.
-/
namespace Sys2Proof.Machine

variable {s : State}

/-! ## The status ports -/

theorem statusPorts_of_valid (hv : s.stValid = true) (hf : s.cfgFault = false) :
    statusPorts s =
      { valid := true, mem := s.stMem, route := s.stRoute, inp := s.stIn, out := s.stOut, power := s.stPower } := by
  simp [statusPorts, hv, hf]

/-- With no status to read every port is driven 0, whatever the registers hold (44_external_interfaces.md R218). -/
theorem statusPorts_of_not_valid (h : ¬ (s.stValid = true ∧ s.cfgFault = false)) :
    statusPorts s =
      { valid := false, mem := Vector.replicate 4 0, route := Vector.replicate 4 0
        inp := Vector.replicate 4 false, out := Vector.replicate 4 false, power := false } :=
  if_neg (by simpa using h)

/-- Settles O19: by whether there is a status to read, each case with the one value its lemma gives the ports. -/
theorem statusPortsShowRegisters : Obligations.StatusPortsShowRegisters := by
  intro s
  by_cases h : s.stValid = true ∧ s.cfgFault = false
  · rw [statusPorts_of_valid h.1 h.2]
    exact ⟨iff_of_true rfl h, fun _ => ⟨rfl, rfl, rfl, rfl, rfl⟩, nofun⟩
  · rw [statusPorts_of_not_valid h]
    refine ⟨iff_of_false nofun h, nofun, fun _ k => ?_⟩
    exact ⟨Vector.getElem_replicate k.isLt, Vector.getElem_replicate k.isLt, Vector.getElem_replicate k.isLt,
      Vector.getElem_replicate k.isLt, rfl⟩

end Sys2Proof.Machine
end

section
/-!
PROOFS. The exceptions (60_exceptions.md): the order of coinciding events, what an unusable instance still answers, what one tick puts
on the output ports, and that no rule reads a sticky error flag.
-/
namespace Sys2Proof.Machine

variable {s t : State} {e left : Edge} {rest : List Input}

/-! ## The order of coinciding events (R236) -/

/-- Settles O7: event by event in the order of R236, each with none before it on the edge. -/
theorem coincidingEventsAreTakenInOrder : Obligations.CoincidingEventsAreTakenInOrder := by
  rintro ⟨reset, getStatus, rx, switchCmd, drainDone, tick, txFail⟩
  refine ⟨?reset, ?afterReset⟩
  case reset => rintro st ⟨⟩; rfl
  rintro ⟨⟩
  refine ⟨?getStatus, ?afterGetStatus⟩
  case getStatus => rintro ⟨⟩; rfl
  rintro ⟨⟩
  refine ⟨?rxByte, ?afterRxByte⟩
  case rxByte => rintro b ⟨⟩; rfl
  rintro ⟨⟩
  refine ⟨?switchCmd, ?afterSwitchCmd⟩
  case switchCmd => rintro r ⟨⟩; rfl
  rintro ⟨⟩
  refine ⟨?drainDone, ?afterDrainDone⟩
  case drainDone => rintro ok ⟨⟩; rfl
  rintro ⟨⟩
  refine ⟨?tick, ?none⟩
  case tick => rintro ⟨⟩; rfl
  case none => rintro ⟨⟩; rfl

/-- On a usable instance the received marker of its label runs `rxMarker` (40_frame_decoder.md R110). -/
theorem step_rxMarker {m : Byte} (h : s.inputs = .edge e :: rest) (hn : nextEvent e = some (.rxByte m, left)) (hf : s.cfgFault = false)
    (hm : marker s.cfgLabel = some m) : step s = .next (rxMarker (takeEvent e left rest s)) := by
  have runs {i : Instr} (hi : byteInstr (.rxb s.cfgLabel s.rxSynced) m = some i)
      (hrow : i = .rxMarkerTop ∧ s.cfgLabel = Config.labelTop ∨ i = .rxMarkerBottom ∧ s.cfgLabel = Config.labelBottom) :
      step s = .next (rxMarker (takeEvent e left rest s)) :=
    (step_of_eventInstr h hn hi).trans (exec_rxMarker hf hrow)
  obtain ⟨hlabel, rfl⟩ | ⟨hlabel, rfl⟩ := marker_known hm
  · exact runs (by rw [hlabel]; rfl) (.inl ⟨rfl, hlabel⟩)
  · exact runs (by rw [hlabel]; rfl) (.inr ⟨rfl, hlabel⟩)

/-- A `GetStatus` answers the status as it stands before the event. -/
theorem step_getStatus (h : s.inputs = .edge e :: rest) (hn : nextEvent e = some (.getStatus, left)) :
    step s = .next (emit (.status (statusRead s)) (takeEvent e left rest s)) :=
  step_of_eventInstr h hn rfl

/-- Settles O8: the first step takes the read and leaves the marker on the edge, the second takes the marker. -/
theorem statusReadPrecedesCoincidingInstall : Obligations.StatusReadPrecedesCoincidingInstall := by
  intro s rest m hf hm hs hc hin
  have hread := step_getStatus (left := { rx := some m }) hin rfl
  have hmarker := step_rxMarker (s := emit (.status (statusRead s)) (takeEvent { getStatus := true, rx := some m } { rx := some m } rest s))
    rfl rfl hf hm
  refine ⟨_, _, hread, rfl, rfl, rfl, hmarker.trans (congrArg _ (rxMarker_install hs (congrArg BitVec.toNat hc))), ?_⟩
  exact ⟨rfl, rfl, rfl, rfl, rfl, rfl, rfl, rfl⟩

/-! ## An unusable instance (R232) -/

theorem rxByte_of_fault (b : Byte) (hf : s.cfgFault = true) : rxByte b s = s := if_pos hf

/-- The action of every sequencer state is inert under `CFG_FAULT`. -/
theorem exec_tickInstr_of_fault (st : State) (hf : s.cfgFault = true) : exec (tickInstr st) s = .next s := by
  cases hst : st.seqState <;> simp only [tickInstr, hst] <;> exact congrArg _ (whenUsable_of_fault hf _)

theorem execSwitchcmd_of_fault (r : Request) (hf : s.cfgFault = true) : execSwitchcmd r s = .next (emit (.reqAccept false) s) :=
  if_pos hf

/-- Settles O49, event by event. -/
theorem unusableInstanceIgnoresEvents : Obligations.UnusableInstanceIgnoresEvents := by
  intro s rest fails hf
  refine ⟨fun b h => ?rxByte, fun h => ?tick, fun ok h => ?drainDone, fun r h => ?switchCmd, fun h => ?getStatus⟩
  case rxByte =>
    obtain hs | ⟨b', hs⟩ := step_rxByte (b := b) h rfl
    · exact hs
    · exact hs.trans (congrArg _ (rxByte_of_fault b' hf))
  case tick => exact (step_tick h).trans (exec_tickInstr_of_fault s hf)
  case drainDone => exact (step_of_no_instr (ev := .drainDone ok) h rfl rfl).trans (congrArg _ (drainAnswer_ignored ok (.inl hf)))
  case switchCmd => exact (step_of_eventInstr (ev := .switchCmd r) h rfl rfl).trans (execSwitchcmd_of_fault r hf)
  case getStatus =>
    rw [step_getStatus h rfl, statusRead_empty (.inl hf)]
    rfl

/-! ## What one tick puts on the output ports (R237) -/

/-- What a tick that finds the sequencer in the given state may put on the output ports: nothing; outside `DRAIN` one write, which may
fail; in `XMIT` the drain request; in `DRAIN` the log event of a failed drain. -/
inductive TickOutputs : SeqState → List Output → Prop
  | silent (st : SeqState) : TickOutputs st []
  | write {st : SeqState} (hst : st ≠ .drain) (b : Byte) (fails : Bool) : TickOutputs st (writeOutputs b fails)
  | drainRequest : TickOutputs .xmit [.drainReq]
  | drainFailed : TickOutputs .drain [.log 2]

/-- From `s` to `t` the outputs of one tick are added. -/
def TickPuts (s t : State) : Prop := ∃ new, t.outs = s.outs ++ new ∧ TickOutputs s.seqState new

theorem tickPuts_of_outs (h : t.outs = s.outs) : TickPuts s t := ⟨[], by rw [h, List.append_nil], .silent _⟩

theorem whenUsable_tickPuts (h : TickPuts s t) : TickPuts s (whenUsable s t) := by
  unfold whenUsable
  split
  · exact tickPuts_of_outs rfl
  · exact h

theorem startRequest_tickPuts (s : State) : TickPuts s (startRequest s) := by
  unfold startRequest
  split
  · exact tickPuts_of_outs rfl
  · exact tickPuts_of_outs (advance_outs _)

/-- The last tick of the settle delay writes wire byte 0 (43_command_sequencer.md R179, R180). -/
theorem settleTick_tickPuts (hs : s.seqState = .settle) : TickPuts s (settleTick s) := by
  unfold settleTick
  simp only
  split
  · obtain ⟨w, n, -, hbegin⟩ := beginXmit_eq { s with timer := s.timer + 1 }
    rw [hbegin]
    exact ⟨_, rfl, .write (by simp [hs]) w[0] s.txFail⟩
  · exact tickPuts_of_outs rfl

/-- The ticks of the writes are before the tick of the drain request (43_command_sequencer.md R181). -/
theorem xmitTick_tickPuts (hs : s.seqState = .xmit) : TickPuts s (xmitTick s) := by
  unfold xmitTick
  simp only
  obtain ⟨k, -, htimer, hwrite⟩ | ⟨-, hsilent⟩ := staggeredWrite_cases { s with timer := s.timer + 1 }
  · have hbefore : (s.timer + 1).toNat ≠ 250 := fun h => by
      have hk : (s.timer + 1).toNat = k.val * 50 := htimer
      omega
    rw [hwrite, if_neg hbefore]
    exact ⟨_, rfl, .write (by simp [hs]) s.wire[k] s.txFail⟩
  · rw [hsilent]
    split
    · exact ⟨_, rfl, hs ▸ .drainRequest⟩
    · exact tickPuts_of_outs rfl

theorem endStep_outs (s : State) : (endStep s).outs = s.outs := advance_outs _

/-- A tick in `DRAIN` writes nothing; it logs a drain that failed (43_command_sequencer.md R183). -/
theorem drainTick_tickPuts (hs : s.seqState = .drain) : TickPuts s (drainTick s) := by
  unfold drainTick
  split_ifs
  · exact tickPuts_of_outs (endStep_outs s)
  · exact ⟨[.log 2], (endStep_outs _).trans rfl, hs ▸ .drainFailed⟩
  · exact tickPuts_of_outs rfl

/-- The action of a tick in each state of the sequencer (43_command_sequencer.md R173). -/
theorem exec_tickInstr_tickPuts (s : State) : ∃ t, exec (tickInstr s) s = .next t ∧ TickPuts s t := by
  cases hs : s.seqState <;> simp only [tickInstr, hs] <;> refine ⟨_, rfl, ?_⟩ <;> rw [if_pos hs] <;> apply whenUsable_tickPuts
  case idle => exact startRequest_tickPuts s
  case settle => exact settleTick_tickPuts hs
  case xmit => exact xmitTick_tickPuts hs
  case drain => exact drainTick_tickPuts hs

/-- One write is one byte, with the log event of `E_WRITE` where it fails (43_command_sequencer.md R182). -/
theorem mem_writeOutputs {o : Output} {b : Byte} {fails : Bool} (h : o ∈ writeOutputs b fails) :
    o = .txWrite b (!fails) ∨ o = .log 1 := by
  cases fails <;> simp_all [writeOutputs]

theorem logCodes_writeOutputs (b : Byte) (fails : Bool) : (logCodes (writeOutputs b fails)).length ≤ 1 := by
  cases fails <;> simp [writeOutputs, logCodes]

/-- The bounds of 60_exceptions.md R237 hold of each of the outputs that a tick can have. -/
theorem tickOutputs_bounds {st : SeqState} {new : List Output} (h : TickOutputs st new) :
    (txBytes new).length ≤ 1 ∧ (logCodes new).length ≤ 1 ∧ (Output.log 1 ∈ new → Output.log 2 ∉ new) ∧
      (st = .drain → txBytes new = [] ∧ Output.log 1 ∉ new) ∧ (Output.log 2 ∈ new → st = .drain) ∧
      (Output.drainReq ∈ new → txBytes new = []) := by
  cases h with
  | silent => simp [txBytes, logCodes]
  | write hst b fails =>
    have hlog2 : Output.log 2 ∉ writeOutputs b fails := fun h => by simpa using mem_writeOutputs h
    have hdrainReq : Output.drainReq ∉ writeOutputs b fails := fun h => by simpa using mem_writeOutputs h
    exact ⟨by simp, logCodes_writeOutputs b fails, fun _ => hlog2, fun h => absurd h hst, fun h => absurd h hlog2,
      fun h => absurd h hdrainReq⟩
  | drainRequest => simp [txBytes, logCodes]
  | drainFailed => simp [txBytes, logCodes]

/-- Settles O56: a tick has the outputs of its action. -/
theorem atMostOneWritePerTick : Obligations.AtMostOneWritePerTick := by
  intro s t rest fails hin ht
  obtain ⟨t', ht', new, houts, hnew⟩ := exec_tickInstr_tickPuts { s with inputs := rest, txFail := fails }
  cases ht.symm.trans ((step_tick hin).trans ht')
  exact ⟨new, houts, tickOutputs_bounds hnew⟩

/-! ## Operations that ignore the sticky error flags (R240) -/

/-- With other values in the sticky error flags, `f` gives the same state but for those flags. -/
def IgnoresFlags (f : State → State) : Prop :=
  ∀ (s : State) (w d q : Bool), ∃ w' d' q', f (withErrorFlags w d q s) = withErrorFlags w' d' q' (f s)

namespace IgnoresFlags

variable {f g : State → State}

/-- An operation that leaves the flags as they are; for an update of other registers the equation holds by computing. -/
theorem of_commutes (h : ∀ s w d q, f (withErrorFlags w d q s) = withErrorFlags w d q (f s) := by intros; rfl) : IgnoresFlags f :=
  fun s w d q => ⟨w, d, q, h s w d q⟩

/-- An operation after which nothing is left of what the flags were, as `Reset` is (70_reset_and_hazards.md R260). -/
theorem of_forgets (h : ∀ s w d q, f (withErrorFlags w d q s) = f s := by intros; rfl) : IgnoresFlags f :=
  fun s w d q => ⟨(f s).errWrite, (f s).errDrain, (f s).errQfull, h s w d q⟩

protected theorem id : IgnoresFlags fun s => s := of_commutes

theorem comp (hg : IgnoresFlags g) (hf : IgnoresFlags f) : IgnoresFlags fun s => g (f s) := fun s w d q => by
  obtain ⟨w', d', q', hfs⟩ := hf s w d q
  obtain ⟨w'', d'', q'', hgs⟩ := hg (f s) w' d' q'
  exact ⟨w'', d'', q'', (congrArg g hfs).trans hgs⟩

/-- A choice by something that the flags are no part of, so that the condition reads the same registers in both states. -/
theorem choice {p : State → Prop} {_ : DecidablePred p} (hf : IgnoresFlags f) (hg : IgnoresFlags g)
    (hp : ∀ s w d q, p (withErrorFlags w d q s) ↔ p s := by intros; rfl) : IgnoresFlags fun s => if p s then f s else g s := by
  intro s w d q
  by_cases h : p s
  · simpa only [if_pos h, if_pos ((hp s w d q).2 h)] using hf s w d q
  · simpa only [if_neg h, if_neg (mt (hp s w d q).1 h)] using hg s w d q

theorem usable (hf : IgnoresFlags f) : IgnoresFlags fun s => whenUsable s (f s) := choice .id hf

end IgnoresFlags

/-! ## The shared operations -/

theorem raiseErr_ignoresFlags (c : ErrCond) : IgnoresFlags (raiseErr c) := fun s w d q => by
  simp only [raiseErr_eq]
  exact ⟨_, _, _, rfl⟩

theorem emit_ignoresFlags (o : Output) : IgnoresFlags (emit o) := .of_commutes

/-- A write may set `ERR_WRITE`, but what it puts on the ports depends on `tx_fail` alone (43_command_sequencer.md R182). -/
theorem txWrite_ignoresFlags (k : Fin 4) : IgnoresFlags fun s => txWrite s.wire[k] s := fun s w d q => by
  simp only [txWrite_eq]
  exact ⟨_, _, _, rfl⟩

theorem rxMarker_ignoresFlags : IgnoresFlags rxMarker :=
  .comp (g := fun s => { s with rxSynced := true, rxCnt := 0 }) .of_commutes (.choice .of_commutes .id)

theorem rxByte_ignoresFlags (b : Byte) : IgnoresFlags (rxByte b) :=
  .choice .id (.choice rxMarker_ignoresFlags (.choice .of_commutes .id))

theorem rxBytes_ignoresFlags (bs : List Byte) : IgnoresFlags (rxBytes bs) := by
  induction bs with
  | nil => exact .id
  | cons b bs ih => exact ih.comp (rxByte_ignoresFlags b)

theorem skipChars_withErrorFlags (n : Nat) (s : State) (w d q : Bool) :
    skipChars n (withErrorFlags w d q s) = withErrorFlags w d q (skipChars n s) := by
  induction n generalizing s with
  | zero => rfl
  | succ n ih =>
    have hchar : curChar (withErrorFlags w d q s) = curChar s := rfl
    rw [skipChars, skipChars, hchar]
    split
    · rfl
    · split
      · rfl
      · exact ih (nextChar s)

theorem settleOr_withErrorFlags (s t : State) (w d q : Bool) :
    settleOr (withErrorFlags w d q s) (withErrorFlags w d q t) = withErrorFlags w d q (settleOr s t) := by
  have hchar : curChar (withErrorFlags w d q s) = curChar s := rfl
  rw [settleOr, settleOr, hchar]
  split <;> rfl

theorem advanceOver_withErrorFlags (waiting : List Request) (s : State) (w d q : Bool) :
    advanceOver waiting (withErrorFlags w d q s) = withErrorFlags w d q (advanceOver waiting s) := by
  induction waiting generalizing s with
  | nil =>
    rw [advanceOver, advanceOver, skipChars_withErrorFlags, ← settleOr_withErrorFlags]
    rfl
  | cons r waiting ih =>
    rw [advanceOver, advanceOver, skipChars_withErrorFlags, ← settleOr_withErrorFlags, ← ih]
    rfl

theorem advance_ignoresFlags : IgnoresFlags advance := .of_commutes fun s => advanceOver_withErrorFlags s.q s

theorem startRequest_ignoresFlags : IgnoresFlags startRequest := .of_commutes fun s w d q => by
  cases hq : s.q with
  | nil => rw [startRequest_of_empty hq, startRequest_of_empty (s := withErrorFlags w d q s) hq]
  | cons r waiting =>
    rw [startRequest_of_head hq, startRequest_of_head (s := withErrorFlags w d q s) hq]
    exact advanceOver_withErrorFlags waiting (loadRequest r waiting s) w d q

theorem beginXmit_ignoresFlags : IgnoresFlags beginXmit := fun s w d q => by
  have hstep : pointerStep (withErrorFlags w d q s) = pointerStep s := rfl
  simp only [beginXmit, hstep, startXmit_eq]
  split <;> exact ⟨_, _, _, rfl⟩

/-- `TIMER <- TIMER + 1`, as each tick of a running state begins. -/
theorem count_ignoresFlags : IgnoresFlags fun s => { s with timer := s.timer + 1 } := .of_commutes

theorem settleTick_ignoresFlags : IgnoresFlags settleTick :=
  .comp (g := fun s => if s.timer.toNat = Config.settleMs then beginXmit s else s)
    (.choice beginXmit_ignoresFlags .id) count_ignoresFlags

theorem staggeredWrite_ignoresFlags : IgnoresFlags staggeredWrite :=
  .choice (txWrite_ignoresFlags 1) (.choice (txWrite_ignoresFlags 2) (.choice (txWrite_ignoresFlags 3) .id))

theorem drainRequest_ignoresFlags : IgnoresFlags drainRequest := .of_commutes

theorem xmitTick_ignoresFlags : IgnoresFlags xmitTick :=
  .comp (g := fun s => if s.timer.toNat = Config.drainOffsetMs then drainRequest s else s)
    (.choice drainRequest_ignoresFlags .id) (staggeredWrite_ignoresFlags.comp count_ignoresFlags)

theorem endStep_ignoresFlags : IgnoresFlags endStep := advance_ignoresFlags.comp .of_commutes

theorem drainTick_ignoresFlags : IgnoresFlags drainTick :=
  .choice (endStep_ignoresFlags.comp (.choice .id (raiseErr_ignoresFlags .eDrain))) .id

/-! ## Every instruction -/

/-- The four branches of `SWITCHCMD` as one next state (43_command_sequencer.md R170). -/
theorem execSwitchcmd_eq (r : Request) (s : State) :
    execSwitchcmd r s = .next (
      if s.cfgFault then emit (.reqAccept false) s
      else if Config.reqMaxLen < r.len.toNat then emit (.reqAccept false) s
      else if queueFull s then emit (.reqAccept false) (raiseErr .eQfull s)
      else emit (.reqAccept true) (qPush r s)) := by
  unfold execSwitchcmd
  split_ifs <;> rfl

/-- A frame row receives bytes, none under an unknown label, where there is no marker to put them between (40_frame_decoder.md R114;
log 12). -/
theorem execSf13_eq (f : Vector Byte 13) (s : State) :
    execSf13 f s = .next (rxBytes ((marker s.cfgLabel).elim [] fun m => m :: (f.toList ++ [m])) s) := by
  unfold execSf13
  cases marker s.cfgLabel <;> rfl

/-- Every instruction answers what an operation that ignores the flags makes of the state. -/
theorem exec_ignoresFlags (i : Instr) : ∃ f, (∀ s, exec i s = .next (f s)) ∧ IgnoresFlags f := by
  cases i with
  | rxMarkerTop => exact ⟨_, fun _ => rfl, rxByte_ignoresFlags _⟩
  | rxMarkerBottom => exact ⟨_, fun _ => rfl, rxByte_ignoresFlags _⟩
  | rxDataSynced b => exact ⟨_, fun _ => rfl, rxByte_ignoresFlags b⟩
  | rxDataUnsynced b => exact ⟨_, fun _ => rfl, rxByte_ignoresFlags b⟩
  | sf13 f => exact ⟨_, execSf13_eq f, fun s w d q => rxBytes_ignoresFlags _ s w d q⟩
  | switchcmd r =>
    exact ⟨_, execSwitchcmd_eq r, .choice (emit_ignoresFlags _) (.choice (emit_ignoresFlags _)
      (.choice ((emit_ignoresFlags _).comp (raiseErr_ignoresFlags .eQfull)) .of_commutes))⟩
  | reset st => exact ⟨_, fun _ => rfl, .of_forgets⟩
  | seqStart => exact ⟨_, fun _ => rfl, .usable (.choice startRequest_ignoresFlags .id)⟩
  | seqAdvance => exact ⟨_, fun _ => rfl, .usable advance_ignoresFlags⟩
  | seqSettle => exact ⟨_, fun _ => rfl, .usable (.choice settleTick_ignoresFlags .id)⟩
  | seqBeginXmit => exact ⟨_, fun _ => rfl, .usable beginXmit_ignoresFlags⟩
  | seqXmit => exact ⟨_, fun _ => rfl, .usable (.choice xmitTick_ignoresFlags .id)⟩
  | seqDrain =>
    exact ⟨_, fun _ => rfl, .usable (.choice drainTick_ignoresFlags (.choice drainRequest_ignoresFlags .id))⟩
  | seqEndStep => exact ⟨_, fun _ => rfl, .usable (.choice endStep_ignoresFlags .id)⟩
  | getPortNumber | isAvailable | decodeFn | parse | cmdint | complement | encodeFn | getstatus =>
    exact ⟨_, fun _ => rfl, .of_commutes⟩
  | _ => exact ⟨_, fun _ => rfl, .usable .of_commutes⟩

/-- Settles O51: the operation that `exec_ignoresFlags` gives for the instruction, run with either values of the flags. -/
theorem errorFlagsNeverChangeBehaviour : Obligations.ErrorFlagsNeverChangeBehaviour := by
  intro i s t w d q ht
  obtain ⟨f, hexec, hf⟩ := exec_ignoresFlags i
  cases ht.symm.trans (hexec s)
  obtain ⟨w', d', q', hflags⟩ := hf s w d q
  exact ⟨w', d', q', (hexec _).trans (congrArg _ hflags)⟩

end Sys2Proof.Machine
end

section
/-!
PROOFS. Reset and hazards (70_reset_and_hazards.md): what `RESET` leaves in each register, and what moves while a drain is unanswered.
-/
namespace Sys2Proof.Machine

variable {s t : State} {e left : Edge} {ev : Event} {rest : List Input}

/-! ## RESET (R260) -/

theorem labelKnown_iff (label : BitVec 2) : labelKnown label = true ↔ label = 0b10 ∨ label = 0b01 := by
  simp [labelKnown]

theorem labelKnown_eq_false_iff (label : BitVec 2) : labelKnown label = false ↔ label = 0b00 ∨ label = 0b11 := by
  revert label
  decide

/-- What a reset sets whatever the label is; the registers left out are the free ones and those the label decides. -/
theorem resetWith_values (st : Straps) (v : Unspecified) (s : State) :
    resetWith st v s = { resetWith st v s with
      cfgLabel := st.label, cfgIn4 := st.in4, cfgOut4 := st.out4, rts := false
      rxSynced := false, rxCnt := 0, stValid := false, stMem := #v[0, 0, 0, 0], stRoute := #v[0, 0, 0, 0]
      stIn := #v[false, false, false, false], stOut := #v[false, false, false, false], stPower := false
      q := [], seqState := .idle, idx := 0, timer := 0, drainDone := false, drainOk := false
      errWrite := false, errDrain := false, errQfull := false
      qDepth := s.qDepth, inputs := s.inputs, txFail := s.txFail, freeCtr := s.freeCtr } := by
  unfold resetWith
  simp only [raiseErr_eq]
  split <;> rfl

theorem resetWith_curLen (st : Straps) (v : Unspecified) (s : State) : (resetWith st v s).curLen = v.curLen := by
  unfold resetWith
  simp only
  split <;> rfl

/-- A known label opens the link, and nothing is logged. -/
theorem resetWith_of_known {st : Straps} (h : labelKnown st.label = true) (v : Unspecified) (s : State) :
    (resetWith st v s).cfgFault = false ∧ (resetWith st v s).dtr = true ∧ (resetWith st v s).dsr = true ∧
      (resetWith st v s).outs = s.outs := by
  simp [resetWith, h]

/-- An unknown label closes the link and raises `E_CFG_LABEL`. -/
theorem resetWith_of_unknown {st : Straps} (h : labelKnown st.label = false) (v : Unspecified) (s : State) :
    (resetWith st v s).cfgFault = true ∧ (resetWith st v s).dtr = false ∧ (resetWith st v s).dsr = false ∧
      (resetWith st v s).outs = s.outs ++ [.log 4] := by
  simp [resetWith, h, raiseErr_eq, logCode]

/-- Settles O48: the values common to all labels, the range of the free `CUR_LEN`, and the two kinds of label. -/
theorem resetSetsEveryRegister : Obligations.ResetSetsEveryRegister := by
  intro s st
  have hvalues := resetWith_values st (freeValues s.freeCtr) s
  refine ⟨_, rfl, congrArg (fun t : State => { t with freeCtr := s.freeCtr + 1 }) hvalues, ?_, fun h => ?_, fun h => ?_⟩
  · show (resetWith st (freeValues s.freeCtr) s).curLen.toNat ≤ 4
    rw [resetWith_curLen]
    exact freeValues_curLen s.freeCtr
  · exact resetWith_of_known ((labelKnown_iff _).2 h) _ s
  · exact resetWith_of_unknown ((labelKnown_eq_false_iff _).2 h) _ s

/-- Settles O58: `RESET` is a reset with a legal free length, and the counter it advances is in no part of the invariant. -/
theorem everyResetEstablishesInvariant : Obligations.EveryResetEstablishesInvariant := fun s st hedges hdepth =>
  ⟨_, rfl, resetWith_inv (s := s) st _ (freeValues_curLen s.freeCtr) hedges hdepth⟩

/-! ## An unanswered drain (R271) -/

/-- A tick's action in `DRAIN` does nothing while the drain is unanswered (43_command_sequencer.md R183). -/
theorem exec_seqDrain_unanswered (hs : s.seqState = .drain) (hw : s.drainDone = false) : exec .seqDrain s = .next s := by
  have hwait : drainTick s = s := by simp [drainTick, hw]
  show Host.Outcome.next (whenUsable s _) = _
  rw [if_pos hs, hwait, whenUsable, ite_self]

/-- Ticks alone, however many, leave an unanswered drain waiting. -/
theorem ticksTo_drainUnanswered (hs : s.seqState = .drain) (hw : s.drainDone = false) (fails : List Bool) : TicksTo fails s s := by
  induction fails with
  | nil => exact .refl s
  | cons f fails ih =>
    have htick : TicksTo [f] s s :=
      .of_exec (i := .seqDrain) (by rw [tickInstr, hs]) fun _ => exec_seqDrain_unanswered hs hw
    exact htick.append ih

/-- From `s` to `t` the sequencer and its current request stay as they are, no byte is written, and no request leaves the queue. -/
abbrev SequencerHeld (s t : State) : Prop :=
  t.seqState = s.seqState ∧ t.drainDone = s.drainDone ∧ t.idx = s.idx ∧ t.timer = s.timer ∧ t.curLen = s.curLen ∧
    t.curChars = s.curChars ∧ t.wire = s.wire ∧ txBytes t.outs = txBytes s.outs ∧ ∃ new, t.q = s.q ++ new

theorem sequencerHeld_refl (s : State) : SequencerHeld s s :=
  ⟨rfl, rfl, rfl, rfl, rfl, rfl, rfl, rfl, [], (List.append_nil _).symm⟩

/-- What agrees outside the receive path and the status has the same sequencer, queue and outputs. -/
theorem sequencerHeld_of_eraseRx (h : eraseRx t = eraseRx s) : SequencerHeld s t := by
  rw [eq_of_eraseRx h]
  exact sequencerHeld_refl s

/-- A request is refused, or joins the queue at its tail (43_command_sequencer.md R170). -/
theorem execSwitchcmd_sequencerHeld (r : Request) (s : State) :
    ∃ t, execSwitchcmd r s = .next t ∧ t.inputs = s.inputs ∧ SequencerHeld s t := by
  unfold execSwitchcmd
  split_ifs <;> exact ⟨_, rfl, rfl, by simp [SequencerHeld, raiseErr_eq, txBytes]⟩

/-- While a drain is unanswered, no event but its answer and a reset moves the sequencer. -/
theorem step_sequencerHeld (hs : s.seqState = .drain) (hw : s.drainDone = false) (h : s.inputs = .edge e :: rest)
    (hn : nextEvent e = some (ev, left)) (hreset : ∀ st, ev ≠ .reset st) (hanswer : ∀ ok, ev ≠ .drainDone ok) :
    ∃ t, step s = .next t ∧ t.inputs = putBack left rest ∧ SequencerHeld s t := by
  have hheld : SequencerHeld s (takeEvent e left rest s) := sequencerHeld_refl s
  cases ev with
  | reset st => exact absurd rfl (hreset st)
  | drainDone ok => exact absurd rfl (hanswer ok)
  | getStatus => exact ⟨_, step_of_eventInstr h hn rfl, rfl, by simp [SequencerHeld, txBytes]⟩
  | rxByte b =>
    obtain hstep | ⟨b', hstep⟩ := step_rxByte h hn
    · exact ⟨_, hstep, rfl, hheld⟩
    · have hframe := rxByte_frame b' (takeEvent e left rest s)
      have hheld : SequencerHeld (takeEvent e left rest s) (rxByte b' (takeEvent e left rest s)) := sequencerHeld_of_eraseRx hframe
      exact ⟨_, hstep, (congrArg State.inputs hframe :), hheld⟩
  | switchCmd r =>
    obtain ⟨t, ht, hinputs, hk⟩ := execSwitchcmd_sequencerHeld r (takeEvent e left rest s)
    exact ⟨t, (step_of_eventInstr h hn rfl).trans ht, hinputs, hk⟩
  | tick =>
    have hstep : step s = exec .seqDrain (takeEvent e left rest s) := step_of_tick h hn (by rw [tickInstr, hs])
    exact ⟨_, hstep.trans (exec_seqDrain_unanswered hs hw), rfl, hheld⟩

/-- Settles O46: ticks alone by induction on their number, any other event by `step_sequencerHeld`. -/
theorem unansweredDrainHoldsSequencer : Obligations.UnansweredDrainHoldsSequencer := by
  refine ⟨fun fails s rest hs hw hin => ?_, fun s e left rest ev hs hw h hn hreset hanswer => ?_⟩
  · obtain ⟨level, hrun⟩ := (ticksTo_drainUnanswered hs hw fails).after rfl hin
    exact ⟨_, hrun, rfl⟩
  · obtain ⟨t, ht, hinputs, hseq, hdone, hrest⟩ := step_sequencerHeld hs hw h hn hreset hanswer
    exact ⟨t, ht, hinputs, hseq.trans hs, hdone.trans hw, hrest⟩

end Sys2Proof.Machine
end
